-- ==== Sys2Proof/Word.lean ====
section
/-!
DEFINITION. The widths of the block and the types they give (00_scope.md R6, R8). Each width of R6 is one constant;
`delta%` puts the constant's value into the type, so that a type reads `BitVec 16` and the constant is the one place
where the width stands.
-/

namespace Sys2Proof

/-- `WORD_BITS`: the width of a Command Word and of every Transaction Buffer slot (R6). -/
def Config.wordBits : Nat := 16

/-- `ADDR_BITS`: the width of an I2C follower address (R6). -/
def Config.addrBits : Nat := 7

/-- `ERR_BITS`: the width of the error bitmask (R6, R80). -/
def Config.errBits : Nat := 8

/-- One byte: a character, a status code or a data byte (R8). -/
abbrev Byte := BitVec 8

/-- One Command Word, the content of one Transaction Buffer slot (R6, R54). -/
abbrev Word := BitVec (delta% Config.wordBits)

/-- One follower address (R6, R50 (b)). -/
abbrev Address := BitVec (delta% Config.addrBits)

/-- One error bitmask (R6, R80). -/
abbrev ErrMask := BitVec (delta% Config.errBits)

end Sys2Proof
end

