-- ==== Sys2Proof/Config.lean ====
section
/-!
DEFINITION. What an implementation fixes. The constants whose value the spec states (00_scope.md R6) are
plain definitions. The parameters the spec leaves open (R7) and the environment's answers (R13) are opaque
constants with no body: nothing in Lean can evaluate one, so a theorem holds whatever their values are.
-/

namespace Sys2Proof

/-- A bus speed tier: 10 kHz, 100 kHz, 400 kHz (R21, R78). The spec gives the tiers no numbers. -/
inductive SpeedTier
  | vslow
  | std
  | fast
  deriving DecidableEq, Repr

/-- The eight error kinds, in the order in which the spec lists them (R80). -/
inductive ErrKind
  | sf   -- start-fail
  | an   -- address-NACK
  | al   -- arbitration-lost
  | dra  -- data-read-ack-fail
  | drn  -- data-read-nack-fail
  | bro  -- bus-reset-occurred
  | nbr  -- no-bytes-requested
  | rsv  -- reserved
  deriving DecidableEq, Repr

/-- What `Wait()` and `WaitRelease()` return (R243, R244). -/
inductive WaitAnswer
  | done
  | timeout
  deriving DecidableEq, Repr, Inhabited

/-- What `Bus.Reset()` returns (R241). -/
inductive ResetAnswer
  | ok
  | fail
  deriving DecidableEq, Repr, Inhabited

/-- The status a `Tx` reports, which the block ignores (R204, R233). -/
inductive SendAnswer
  | sent
  | timeout
  deriving DecidableEq, Repr, Inhabited

namespace Config

/-- `START_BASE`: the smallest start token (R6, R69). -/
def startBase : Nat := 1000

/-- `TB_CAP`: the number of Transaction Buffer slots (R6, R27). -/
def tbCap : Nat := 260

/-- `OFS_BLOCK` and `OFS_PEC`: what `&` and `#` add (R6, R72). -/
def ofsBlock : Word := 1
@[inherit_doc ofsBlock] def ofsPec : Word := 2

/-- The status codes of R6 and R76. -/
def stStart : Byte := 0x08
@[inherit_doc stStart] def stRStart : Byte := 0x10
@[inherit_doc stStart] def stAwAck : Byte := 0x18
@[inherit_doc stStart] def stAwNack : Byte := 0x20
@[inherit_doc stStart] def stArAck : Byte := 0x40
@[inherit_doc stStart] def stDrAck : Byte := 0x50
@[inherit_doc stStart] def stDrNack : Byte := 0x58

/-- The newline byte LF (R15, R202). PRESUMED by the spec itself: general knowledge (log 23). Unsafe. -/
def lf : Byte := 0x0A

/-- The bus clock of a tier in kHz (R6, R260). No rule of the block depends on it. -/
def tierKHz : SpeedTier → Nat
  | .vslow => 10
  | .std => 100
  | .fast => 400

/-! ### Parameters the spec leaves open (R7) -/

/-- `ERRBIT` (R7, R80): which bit stands for which kind, any injective map of the eight kinds to the eight
bits, that is a permutation of the bits (log 10). Safe. -/
opaque errPerm : Equiv.Perm (Fin (delta% errBits))

/-- The place of a kind in the list of R80. -/
def errIndex : ErrKind → Fin (delta% errBits)
  | .sf => 0
  | .an => 1
  | .al => 2
  | .dra => 3
  | .drn => 4
  | .bro => 5
  | .nbr => 6
  | .rsv => 7

/-- The bit position `ERRBIT` gives a kind. -/
def errBit (k : ErrKind) : Fin (delta% errBits) := errPerm (errIndex k)

/-- `SCAN_COUNT` (R7, R190) is 128 or 129, and this constant says which (log 11). Safe. -/
opaque scanExtra : Bool

@[inherit_doc scanExtra] def scanCount : Nat := if scanExtra then 129 else 128

/-- `HEX_TERM` (R7, R201): the byte sent after every two-digit report (log 12). Safe. -/
opaque hexTerm : Byte

/-- `HELP_TEXT`, `IDENT_TEXT`, `BCAST_ON_MSG`, `BCAST_OFF_MSG` (R7): open byte strings (log 12). Safe. -/
opaque helpText : List Byte
@[inherit_doc helpText] opaque identText : List Byte
@[inherit_doc helpText] opaque bcastOnMsg : List Byte
@[inherit_doc helpText] opaque bcastOffMsg : List Byte

/-- `SPEED_SET_REPLY` (R7, D26): what `S`, `T` or `V` answers, perhaps nothing (log 12). Safe. -/
opaque speedSetReply : SpeedTier → List Byte

/-- The digits `D(t)` of the speed report (R122): the first, and the rest. They are open (log 12). Safe. -/
opaque speedDigitHead : SpeedTier → Fin 10
@[inherit_doc speedDigitHead] opaque speedDigitTail : SpeedTier → List (Fin 10)

/-- The trailing digit `z(FAST)`, the only one R122 leaves open (log 12). Safe. -/
opaque speedTrailFast : Fin 10

/-- An ASCII digit (R62). -/
def asciiDigit (d : Fin 10) : Byte := 0x30 + BitVec.ofNat 8 d.val

/-- `z(t)`: the trailing digit, `0` for very-slow and standard (R122). -/
def speedTrail : SpeedTier → Fin 10
  | .vslow => 0
  | .std => 0
  | .fast => speedTrailFast

/-- `SPEED_REPORT(t) = D(t) ++ [z(t)] ++ [LF]` (R122). -/
def speedReport (t : SpeedTier) : List Byte :=
  asciiDigit (speedDigitHead t) :: (speedDigitTail t).map asciiDigit ++ [asciiDigit (speedTrail t), lf]

/-- What the two fatal codes are made of: any two naturals (log 13). Safe. -/
opaque fatalOverflowRaw : Nat
@[inherit_doc fatalOverflowRaw] opaque fatalPeriphRaw : Nat

/-- `FATAL_OVERFLOW` (R7, R225): any non-zero code. -/
def fatalOverflow : Nat := fatalOverflowRaw + 1

/-- `FATAL_PERIPH` (R7, R225, D20): any non-zero code other than `FATAL_OVERFLOW`. -/
def fatalPeriph : Nat :=
  if fatalPeriphRaw + 1 < fatalOverflow then fatalPeriphRaw + 1 else fatalPeriphRaw + 2

/-! ### Answers of the environment (R13)

A call's answer is the next one the environment has ready (`State.env`); when it has none ready, it is one of
these constants applied to the number of the draw (log 2). Safe. -/

/-- The outcome of a `Wait()` (R243). -/
opaque waitDraw : Nat → WaitAnswer
/-- The outcome of a `WaitRelease()` (R244). -/
opaque releaseDraw : Nat → WaitAnswer
/-- The code of a `Bus.Status()` (R239). -/
opaque statusDraw : Nat → Byte
/-- The byte of a `Bus.Read()` (R238). -/
opaque dataDraw : Nat → Byte
/-- The outcome of a `Bus.Reset()` (R241). -/
opaque resetDraw : Nat → ResetAnswer
/-- The status of a `Tx` (R204, R233). -/
opaque sendDraw : Nat → SendAnswer

end Config

end Sys2Proof
end

