-- ==== Sys2Proof/Syntax.lean ====
section
/-!
DEFINITION. The instructions: one constructor for each of the 47 rows of spec/opcode_table.json, 43 input
characters (30_encoding.md R61 to R67) and 4 kinds of Command Word (R69 to R74).
-/

namespace Sys2Proof

/-- One instruction. A character row is one received byte, a lower-case letter being a row of its own (R83).
A Command Word row carries the fields of its word (R70, R71, R73). -/
inductive Instr
  | hex0 | hex1 | hex2 | hex3 | hex4 | hex5 | hex6 | hex7 | hex8 | hex9
  | hexA | hexB | hexC | hexD | hexE | hexF
  | hexALc | hexBLc | hexCLc | hexDLc | hexELc | hexFLc
  | tSw | tSr | tData | tBlk | tPec
  | aScan | aSpeed | aErr | aBcast
  | aHelp | aHelpLc | aIdent | aIdentLc
  | aStd | aStdLc | aFast | aFastLc | aVslow | aVslowLc
  | eol
  /-- Every byte no other row matches (R67, R104). -/
  | ignore (b : Byte)
  /-- A start token, write direction: bits 15..8 and 7..1 of the word less 1000 (R70, R71). -/
  | startW (hi : Byte) (a : Address)
  /-- A start token, read direction (R70, R71). -/
  | startR (hi : Byte) (a : Address)
  /-- A data token read while `RP = 1`: the whole word is the count (R73). -/
  | readCount (n : Word)
  /-- A data token read while `RP = 0`: its low byte is written (R73). -/
  | dataWrite (v : Word)
  deriving DecidableEq, Repr

/-- What one instruction is written as: one input byte, or one Command Word (R61, R69). -/
inductive Code
  | char (b : Byte)
  | word (w : Word)
  deriving DecidableEq, Repr

/-- The classes of R64, a hex digit with its value. -/
inductive CharClass
  | hex (d : BitVec 4)
  | tSw | tSr | tData | tBlk | tPec
  | aScan | aSpeed | aErr | aBcast | aHelp | aIdent | aStd | aFast | aVslow
  | eol
  | ignore
  deriving DecidableEq, Repr

end Sys2Proof
end

