-- ==== Sys2Proof/Machine/State.lean ====
section
/-!
DEFINITION. The state of the block as plain data (10_state.md), the reasons a step can stop, and the state after
power-on (70_reset_and_hazards.md R250).
-/

namespace Sys2Proof.Machine

/-- The Transaction Buffer: the slots that have been written, as index and word, indices strictly rising, and no
slot listed at what an unlisted slot reads as (`slotReset` in Ops.lean). R54 gives the slot no byte view, so a cell
is a whole 16-bit slot (log 6). -/
abbrev Buffer := List (Nat × Word)

/-- One interface call with its argument and what it returned (00_scope.md R10, 20_memory.md R51). -/
inductive Event
  | rx (b : Byte)
  | tx (b : Byte) (a : SendAnswer)
  | start
  | write (b : Byte)
  | ack
  | nack
  | stop
  | read (b : Byte)
  | status (b : Byte)
  | reset (a : ResetAnswer)
  | setSpeed (t : SpeedTier)
  | wait (a : WaitAnswer)
  | release (a : WaitAnswer)
  | fatal (code : Nat)
  deriving DecidableEq, Repr

/-- The answers the environment has ready, one list for each kind of call (R13; log 2). -/
structure Env where
  waits : List WaitAnswer
  releases : List WaitAnswer
  statuses : List Byte
  datas : List Byte
  resets : List ResetAnswer
  sends : List SendAnswer
  deriving DecidableEq, Repr

/-- The sub-states of `MODE = LEX` in which the block rests (40_lexer.md R90). -/
inductive LexAt
  /-- Before the line start; only after power-on. -/
  | l0
  /-- Waiting in `Rx()`, or about to raise the overflow. -/
  | l1
  /-- The line is complete and not yet dispatched. -/
  | ld
  deriving DecidableEq, Repr

/-- The sub-states of the scanner (44_scanner.md R185), named by the call that comes next. -/
inductive ScanAt
  | start
  | startWait
  | startStatus
  | addr
  | addrWait
  | addrStatus
  /-- The bytes of `ReportHex(A)` still to send. -/
  | report (rest : List Byte)
  /-- `STO` (R191). -/
  | timeout
  /-- `SCLEAN` (R192). -/
  | stop
  | release
  | releaseReset
  /-- The bus reset failed; the fatal entry is next (R227). -/
  | fatal
  deriving DecidableEq, Repr

/-- The sub-states of `MODE = ADMINOP` (41_admin.md), named by the call that comes next; a `rest` is the bytes of a
report or text still to send, each its own step (R165, R203). -/
inductive AdminAt
  | scan (p : ScanAt)
  | speed (rest : List Byte)
  | err (rest : List Byte)
  | errReset
  /-- The bus reset of `^` failed; the fatal entry is next (R227). -/
  | errFatal
  | bcast (rest : List Byte)
  | help (rest : List Byte)
  | ident (rest : List Byte)
  | setSpeed (t : SpeedTier)
  | speedReply (t : SpeedTier) (rest : List Byte)
  deriving DecidableEq, Repr

/-- The sub-states of the checked executor that have a call in the step table of R165, named by that call. XR.0 has
none, so it is no step (R12): the step that fetches a read-count performs its count test. -/
inductive CheckedAt
  /-- A fetched start token, or byte to write, before its first call: XS.1 or XW.1. -/
  | token
  /-- XS.2 to XS.6. -/
  | startWait
  | startStatus
  | addr
  | addrWait
  | addrStatus
  /-- XR.1 to XR.5. -/
  | readCall
  | readWait
  | readStatus
  | readData
  | readReport (rest : List Byte)
  /-- XW.2. -/
  | writeWait
  /-- XTO. -/
  | timeout
  /-- CL.1 to CL.3. -/
  | stop
  | release
  | releaseReset
  /-- The bus reset of XTO or CL.3 failed; the fatal entry is next (R227; log 5). -/
  | fatal
  deriving DecidableEq, Repr

/-- The sub-states of the Broadcast executor (43_exec_broadcast.md R170): no status after a start or a read byte. -/
inductive BcastAt
  /-- A fetched start token, or byte to write, before its first call. -/
  | token
  | startWait
  | addr
  | addrWait
  | addrStatus
  | readCall
  | readWait
  | readData
  | readReport (rest : List Byte)
  | writeWait
  /-- BTO. -/
  | timeout
  /-- BCLEAN. -/
  | stop
  | release
  | releaseReset
  /-- The bus reset failed; the fatal entry is next (R227; log 5). -/
  | fatal
  deriving DecidableEq, Repr

/-- `MODE` with its sub-state (10_state.md R31). -/
inductive Mode
  | lex (p : LexAt)
  | adminop (p : AdminAt)
  | execChecked (p : CheckedAt)
  | execBcast (p : BcastAt)
  | halted (code : Nat)
  deriving DecidableEq, Repr

/-- Everything the spec gives the block, and the model's own fields, each named as such. -/
structure State where
  /-- SPEED (R21). -/
  speed : SpeedTier
  /-- BCAST (R22). -/
  bcast : Bool
  /-- LASTERR (R23). -/
  lasterr : ErrMask
  /-- ACC (R25). -/
  acc : Byte
  /-- ADMIN (R26). -/
  admin : Bool
  /-- TB (R27). -/
  tb : Buffer
  /-- MODE (R31). -/
  mode : Mode
  /-- I, T, RP, N, S, DB, ERR, A (R28) and AB (R144, R250). -/
  iReg : BitVec 9
  tReg : Word
  rp : Bool
  nReg : Word
  sReg : Byte
  dbReg : Byte
  err : ErrMask
  aReg : Byte
  abReg : Byte
  /-- The loop variable `k` of the read loop of R140 and R170 (log 19). -/
  kReg : Word
  /-- The PAL's selected speed (R34, R250; log 15). -/
  palSpeed : SpeedTier
  /-- Bus ownership, taken by a start and released by a stop (R34, R250; log 15). -/
  busHeld : Bool
  /-- The input position (R32 (a)). -/
  inPos : Nat
  /-- The MODEL's own: the bytes the PAL holds for the next `Rx()` (R57, R253; log 3). -/
  input : List Byte
  /-- The MODEL's own: the answers the environment has ready (R13; log 2). -/
  env : Env
  /-- The MODEL's own: how many answers have been drawn; the free values are taken at it (log 2). -/
  draws : Nat
  /-- The trace of R51, oldest event first. -/
  trace : List Event
  deriving DecidableEq, Repr

/-- Why a step faults. -/
inductive Fault
  /-- Raised by `step` in `HALTED(code)`: the block has no further step (R224). Safe: it is the spec's own end. -/
  | halted (code : Nat)
  /-- Raised by a walk that would fetch from a slot which holds no token of the line (R55); no run reaches it.
  Safe: the model stops. -/
  | deadSlot (slot : Nat)
  /-- Raised by an append past the last slot, an index that does not exist (R54); no run reaches it. Safe: the
  model stops. -/
  | slotOutOfRange (slot : Nat)
  deriving DecidableEq, Repr

/-- Why an instruction is refused. -/
inductive Refusal
  /-- Raised by `exec` for an instruction with no meaning yet. Safe: the model stops. No arm raises it. -/
  | notModelled (mnemonic : String)
  deriving DecidableEq, Repr

/-- The outcome of a step of the block. -/
abbrev Out := Host.Outcome State Fault Refusal

/-- Power-on (R250, R251). The working registers, which R250 leaves unspecified, are 0. DESIGN CHOICE (log 7),
unsafe: every one is set before it is read. -/
def State.reset : State where
  speed := .std
  bcast := false
  lasterr := 0
  acc := 0
  admin := false
  tb := []
  mode := .lex .l0
  iReg := 0
  tReg := 0
  rp := false
  nReg := 0
  sReg := 0
  dbReg := 0
  err := 0
  aReg := 0
  abReg := 0
  kReg := 0
  palSpeed := .std
  busHeld := false
  inPos := 0
  input := []
  env := ⟨[], [], [], [], [], []⟩
  draws := 0
  trace := []

end Sys2Proof.Machine
end

