-- ==== Sys2Proof/Machine/Flags.lean ====
section
/-!
DEFINITION. The flag computations: the error bits (30_encoding.md R80) and the status checks that set them. The
block has no arithmetic condition codes (10_state.md R33).
-/

namespace Sys2Proof.Machine

/-- `bit(K)`: the mask of an error kind under `ERRBIT` (R9, R80). -/
def errMask (k : ErrKind) : ErrMask := BitVec.twoPow _ (Config.errBit k).val

/-- `ERR |= bit(K)` (R9, R29). -/
def State.flag (s : State) (k : ErrKind) : State := { s with err := s.err ||| errMask k }

/-- `LASTERR <- LASTERR | ERR` (R160, R192). -/
def State.foldErr (s : State) : State := { s with lasterr := s.lasterr ||| s.err }

/-- The start check: START sent or repeated START sent, on the full code (R77, R143, R187). -/
def startAccepted (st : Byte) : Bool := st == Config.stStart || st == Config.stRStart

/-- The address check by the direction bit of the address byte (R145, R146). -/
def addrAccepted (ab st : Byte) : Bool :=
  if ab.getLsbD 0 then st == Config.stAwAck || st == Config.stArAck else st == Config.stAwAck

/-- The read phase a status stands for (R147, R173). -/
def readPhase (st : Byte) : Bool := st == Config.stArAck

/-- The check of a read byte and the kind it flags: ACK sent on a byte before the last, NACK on the last
(R149, R150). -/
def readExpected (last : Bool) : Byte := if last then Config.stDrNack else Config.stDrAck
@[inherit_doc readExpected] def readFailure (last : Bool) : ErrKind := if last then .drn else .dra

end Sys2Proof.Machine
end

