-- ==== Sys2Proof/WellFormed.lean ====
section
/-!
DEFINITION. Which instructions have an encoding: an ignored byte is none of the listed ones, a start token's
word does not wrap past 16 bits, a data token lies below 1000 (30_encoding.md R64, R69, R83).
-/

namespace Sys2Proof

/-- The bytes that some character row other than IGNORE matches (R62, R83). -/
def listedBytes : List Byte :=
  [0x30, 0x31, 0x32, 0x33, 0x34, 0x35, 0x36, 0x37, 0x38, 0x39,
   0x41, 0x42, 0x43, 0x44, 0x45, 0x46, 0x61, 0x62, 0x63, 0x64, 0x65, 0x66,
   0x21, 0x3F, 0x24, 0x26, 0x23, 0x40, 0x25, 0x5E, 0x2A,
   0x48, 0x68, 0x49, 0x69, 0x53, 0x73, 0x54, 0x74, 0x56, 0x76, 0x0A]

/-- The word less `START_BASE` of a start token: `hi`, address, direction (R70). -/
def startOffset (hi : Byte) (a : Address) (d : Bool) : Word :=
  (hi ++ a) ++ BitVec.ofBool d

/-- The field checks of an instruction. -/
def Instr.wellFormed : Instr → Bool
  | .ignore b => !listedBytes.contains b
  | .startW hi a => decide (Config.startBase + (startOffset hi a false).toNat < 2 ^ (delta% Config.wordBits))
  | .startR hi a => decide (Config.startBase + (startOffset hi a true).toNat < 2 ^ (delta% Config.wordBits))
  | .readCount n => decide (n.toNat < Config.startBase)
  | .dataWrite v => decide (v.toNat < Config.startBase)
  | _ => true

/-- The condition on `RP` under which a data token is this instruction (R73, the table's `condition`). -/
def Instr.fits (rp : Bool) : Instr → Bool
  | .readCount _ => rp
  | .dataWrite _ => !rp
  | _ => true

end Sys2Proof
end

