-- ==== Sys2Proof/Decode.lean ====
section
/-!
DEFINITION. The two decoders and the encoder. Every byte and every word decodes (30_encoding.md R67, R74), so
the only refusal is of a width that is neither of the two (`decodeTableWord`).
-/

namespace Sys2Proof

/-! ### Characters (R61 to R67) -/

/-- The character rows of the opcode table, byte as received, before folding (R83). -/
def charRows : List (Byte × Instr) :=
  [(0x30, .hex0), (0x31, .hex1), (0x32, .hex2), (0x33, .hex3), (0x34, .hex4),
   (0x35, .hex5), (0x36, .hex6), (0x37, .hex7), (0x38, .hex8), (0x39, .hex9),
   (0x41, .hexA), (0x42, .hexB), (0x43, .hexC), (0x44, .hexD), (0x45, .hexE), (0x46, .hexF),
   (0x61, .hexALc), (0x62, .hexBLc), (0x63, .hexCLc), (0x64, .hexDLc), (0x65, .hexELc), (0x66, .hexFLc),
   (0x21, .tSw), (0x3F, .tSr), (0x24, .tData), (0x26, .tBlk), (0x23, .tPec),
   (0x40, .aScan), (0x25, .aSpeed), (0x5E, .aErr), (0x2A, .aBcast),
   (0x48, .aHelp), (0x68, .aHelpLc), (0x49, .aIdent), (0x69, .aIdentLc),
   (0x53, .aStd), (0x73, .aStdLc), (0x54, .aFast), (0x74, .aFastLc), (0x56, .aVslow), (0x76, .aVslowLc),
   (0x0A, .eol)]

/-- The instruction of a received byte: its row, or IGNORE where no row matches (R64, R83). -/
def decodeChar (b : Byte) : Instr :=
  (charRows.lookup b).getD (.ignore b)

/-- Case folding (R63). -/
def fold (r : Byte) : Byte :=
  if 0x61 ≤ r.toNat ∧ r.toNat ≤ 0x7A then r - 0x20 else r

/-- The class of a folded byte (R64). -/
def classOf (c : Byte) : CharClass :=
  if 0x30 ≤ c.toNat ∧ c.toNat ≤ 0x39 then .hex ((c - 0x30).setWidth 4)
  else if 0x41 ≤ c.toNat ∧ c.toNat ≤ 0x46 then .hex ((c - 0x41 + 10).setWidth 4)
  else if c = 0x21 then .tSw
  else if c = 0x3F then .tSr
  else if c = 0x24 then .tData
  else if c = 0x26 then .tBlk
  else if c = 0x23 then .tPec
  else if c = 0x40 then .aScan
  else if c = 0x25 then .aSpeed
  else if c = 0x5E then .aErr
  else if c = 0x2A then .aBcast
  else if c = 0x48 then .aHelp
  else if c = 0x49 then .aIdent
  else if c = 0x53 then .aStd
  else if c = 0x54 then .aFast
  else if c = 0x56 then .aVslow
  else if c = 0x0A then .eol
  else .ignore

/-- The class of a character row (the table's `class`, R64); none for a Command Word row. -/
def Instr.charClass : Instr → Option CharClass
  | .hex0 => some (.hex 0)
  | .hex1 => some (.hex 1)
  | .hex2 => some (.hex 2)
  | .hex3 => some (.hex 3)
  | .hex4 => some (.hex 4)
  | .hex5 => some (.hex 5)
  | .hex6 => some (.hex 6)
  | .hex7 => some (.hex 7)
  | .hex8 => some (.hex 8)
  | .hex9 => some (.hex 9)
  | .hexA | .hexALc => some (.hex 10)
  | .hexB | .hexBLc => some (.hex 11)
  | .hexC | .hexCLc => some (.hex 12)
  | .hexD | .hexDLc => some (.hex 13)
  | .hexE | .hexELc => some (.hex 14)
  | .hexF | .hexFLc => some (.hex 15)
  | .tSw => some .tSw
  | .tSr => some .tSr
  | .tData => some .tData
  | .tBlk => some .tBlk
  | .tPec => some .tPec
  | .aScan => some .aScan
  | .aSpeed => some .aSpeed
  | .aErr => some .aErr
  | .aBcast => some .aBcast
  | .aHelp | .aHelpLc => some .aHelp
  | .aIdent | .aIdentLc => some .aIdent
  | .aStd | .aStdLc => some .aStd
  | .aFast | .aFastLc => some .aFast
  | .aVslow | .aVslowLc => some .aVslow
  | .eol => some .eol
  | .ignore _ => some .ignore
  | .startW _ _ | .startR _ _ | .readCount _ | .dataWrite _ => none

/-! ### Command Words (R69 to R74) -/

/-- The instruction of a Command Word, `rp` being the read phase `RP` (R69, R71, R73). -/
def decodeWord (rp : Bool) (t : Word) : Instr :=
  if t.toNat < Config.startBase then
    if rp then .readCount t else .dataWrite t
  else
    let o := t - BitVec.ofNat _ Config.startBase
    if o.getLsbD 0 then .startR (o.extractLsb' 8 8) (o.extractLsb' 1 (delta% Config.addrBits))
    else .startW (o.extractLsb' 8 8) (o.extractLsb' 1 (delta% Config.addrBits))

/-- The instruction of a code, in read phase `rp`. -/
def decode (rp : Bool) : Code → Instr
  | .char b => decodeChar b
  | .word w => decodeWord rp w

/-! ### The encoder -/

/-- The byte of a hex or terminator row (R62, R64, R83); the bytes of R62 one by one. -/
def encode : Instr → Code
  | .hex0 => .char 0x30
  | .hex1 => .char 0x31
  | .hex2 => .char 0x32
  | .hex3 => .char 0x33
  | .hex4 => .char 0x34
  | .hex5 => .char 0x35
  | .hex6 => .char 0x36
  | .hex7 => .char 0x37
  | .hex8 => .char 0x38
  | .hex9 => .char 0x39
  | .hexA => .char 0x41
  | .hexB => .char 0x42
  | .hexC => .char 0x43
  | .hexD => .char 0x44
  | .hexE => .char 0x45
  | .hexF => .char 0x46
  | .hexALc => .char 0x61
  | .hexBLc => .char 0x62
  | .hexCLc => .char 0x63
  | .hexDLc => .char 0x64
  | .hexELc => .char 0x65
  | .hexFLc => .char 0x66
  | .tSw => .char 0x21
  | .tSr => .char 0x3F
  | .tData => .char 0x24
  | .tBlk => .char 0x26
  | .tPec => .char 0x23
  | .aScan => .char 0x40
  | .aSpeed => .char 0x25
  | .aErr => .char 0x5E
  | .aBcast => .char 0x2A
  | .aHelp => .char 0x48
  | .aHelpLc => .char 0x68
  | .aIdent => .char 0x49
  | .aIdentLc => .char 0x69
  | .aStd => .char 0x53
  | .aStdLc => .char 0x73
  | .aFast => .char 0x54
  | .aFastLc => .char 0x74
  | .aVslow => .char 0x56
  | .aVslowLc => .char 0x76
  | .eol => .char 0x0A
  | .ignore b => .char b
  | .startW hi a => .word (BitVec.ofNat _ Config.startBase + startOffset hi a false)
  | .startR hi a => .word (BitVec.ofNat _ Config.startBase + startOffset hi a true)
  | .readCount n => .word n
  | .dataWrite v => .word v

/-! ### The host's numbering of the table's rows -/

/-- The character rows to which the reader's table gives a field past bit 7 (it read the digit's value as a bit
number), so that the host may count them as 16 bits wide. The spec's own words make them one byte (R61; log 17). -/
def wideCharCodes : List Nat :=
  [0x38, 0x39, 0x41, 0x42, 0x43, 0x44, 0x45, 0x46, 0x61, 0x62, 0x63, 0x64, 0x65, 0x66]

/-- The code that `nbits` bits `w` of the table are: 8 bits are a character, 16 bits a Command Word, but for the
rows of `wideCharCodes`. Another width is refused. -/
def tableCode (nbits w : Nat) : Option Code :=
  if nbits = 8 then some (.char (BitVec.ofNat 8 w))
  else if nbits = Config.wordBits then
    if wideCharCodes.contains w then some (.char (BitVec.ofNat 8 w)) else some (.word (BitVec.ofNat _ w))
  else none

/-- What the decoders read from a table row's bits; a Command Word is read in the read phase of reset, `RP = 0`
(log 17). -/
def decodeTableWord (nbits w : Nat) : Option Instr :=
  (tableCode nbits w).map (decode false)

end Sys2Proof
end

