-- ==== Sys2Proof/Machine/Operands.lean ====
section
/-!
DEFINITION. How operands are formed: the accumulator, the token a terminator builds, the bytes a Command Word
carries, and the bytes of a report.
-/

namespace Sys2Proof.Machine

/-- `ACC <- (ACC*16 + d) mod 256` (R95). The width is the spec's decision D2 (log 14). -/
def accPush (acc d : Byte) : Byte := acc * 16 + d

/-- The start token of `ACC[6:0]` and a direction (R70, R97, R98): `1000 + (a << 1 | d)`. -/
def startToken (acc : Byte) (d : Bool) : Word :=
  BitVec.ofNat _ Config.startBase + (((acc.setWidth _ : Address).setWidth _ <<< 1) ||| (BitVec.ofBool d).setWidth _)

/-- The data token `zext_16(ACC) + ofs`, not reduced (R72, R99 to R101). -/
def dataToken (acc : Byte) (ofs : Word) : Word := acc.setWidth _ + ofs

/-- The address byte: address in bits 7..1, direction in bit 0 (R71, R75). -/
def addrByte (a : Address) (d : Bool) : Byte := a ++ BitVec.ofBool d

/-- The byte a data token writes (R73, R152). -/
def writeByte (v : Word) : Byte := v.setWidth 8

/-- The byte the scanner sends: `(A << 1)[7:0]` (R188). -/
def scanByte (a : Byte) : Byte := a <<< 1

/-- `HEXCH(n)` (R79). -/
def hexChar (n : BitVec 4) : Byte :=
  if n.toNat < 10 then 0x30 + n.setWidth 8 else 0x41 + (n.setWidth 8 - 10)

/-- The three bytes of `ReportHex(b)` (R79, R200). -/
def hexReport (b : Byte) : List Byte :=
  [hexChar (b.extractLsb' 4 4), hexChar (b.extractLsb' 0 4), Config.hexTerm]

end Sys2Proof.Machine
end

