-- ==== Sys2Proof/Machine/Ops.lean ====
section
/-!
DEFINITION. The named operations every meaning is made of: the Transaction Buffer, the interface calls with their
answers (00_scope.md R10, 60_exceptions.md R232 to R244), the bus reset and the fatal entry (R224, R227), the return
to the session loop (40_lexer.md R91), and the walk's fetch (42_exec_checked.md R141).
-/

namespace Sys2Proof.Machine

/-! ### The Transaction Buffer (R27, R54, R55) -/

/-- What a slot reads as before anything has been written to it: slot 0 holds the 1 of R250, every other slot no
value at all (R27, R55; log 6). Safe: a walk that would read such a slot faults. -/
def slotReset (a : Nat) : Option Word := if a = 0 then some 1 else none

/-- `TB[a]` (R9). -/
def readSlot : Buffer → Nat → Option Word
  | [], a => slotReset a
  | (k, w) :: r, a => if k = a then some w else readSlot r a

/-- Lists slot `a` at `w`, in index order. -/
def putSlot : Buffer → Nat → Word → Buffer
  | [], a, w => [(a, w)]
  | (k, v) :: r, a, w =>
    if a < k then (a, w) :: (k, v) :: r
    else if a = k then (a, w) :: r
    else (k, v) :: putSlot r a w

/-- `TB[a] <- w` (R9); the canonical form is kept. -/
def writeSlot (b : Buffer) (a : Nat) (w : Word) : Buffer :=
  if slotReset a = some w then b.filter (fun c => c.1 != a) else putSlot b a w

/-- The canonical form from index `lo` up: indices rise, exist, and no slot is listed at its reset content. -/
def bufferWfFrom : Nat → Buffer → Bool
  | _, [] => true
  | lo, (k, w) :: r =>
    decide (lo ≤ k) && decide (k < Config.tbCap) && decide (slotReset k ≠ some w) && bufferWfFrom (k + 1) r

/-- The canonical form of a buffer. -/
def Buffer.wf (b : Buffer) : Bool := bufferWfFrom 0 b

/-- `TB[0]`, the length counter: the index of the next free slot (R27). -/
def bufferLen (b : Buffer) : Word := (readSlot b 0).getD 1

@[inherit_doc bufferLen] def State.tbLen (s : State) : Nat := (bufferLen s.tb).toNat

/-- A live token: slot `a` of 1 .. `TB[0]` - 1 (R55, R141). -/
def State.token (s : State) (a : Nat) : Option Word :=
  if 1 ≤ a ∧ a < s.tbLen then readSlot s.tb a else none

/-- `Append(v)`: `TB[TB[0]] <- v ; TB[0] <- TB[0] + 1` (R102). -/
def appendSlot (b : Buffer) (v : Word) : Buffer :=
  let b1 := writeSlot b (bufferLen b).toNat v
  writeSlot b1 0 (bufferLen b1 + 1)

/-! ### Sub-states and the return to the session loop -/

/-- `MODE <- m`. -/
def State.goto (s : State) (m : Mode) : State := { s with mode := m }

/-- `L0`: the line start, then waiting at `L1` (R90, R91). -/
def State.startLine (s : State) : State :=
  { s with acc := 0, tb := writeSlot s.tb 0 1, admin := false, mode := .lex .l1 }

/-- `MODE <- LEX` at the end of an administrative command; the line goes on at `L1` (R115). -/
def State.backToLine (s : State) : State := { s with mode := .lex .l1 }

/-- `ADMIN <- 1` (R115). -/
def State.markAdmin (s : State) : State := { s with admin := true }

/-! ### Interface calls (R10, R51)

Each call adds its event to the trace. A call that returns a value takes the next answer the environment has
ready, or a free value where it has none (R13; log 2). -/

/-- Records a call (R51). -/
def State.emit (s : State) (e : Event) : State := { s with trace := s.trace ++ [e] }

/-- `Rx()` returning `b` (R92, R232); the input position advances by 1 (R32). -/
def State.rx (s : State) (b : Byte) (rest : List Byte) : State :=
  { s with input := rest, inPos := s.inPos + 1, trace := s.trace ++ [.rx b] }

/-- `Bus.Start()` (R234); it takes the bus (R34). -/
def State.busStart (s : State) : State := { s with busHeld := true, trace := s.trace ++ [.start] }

/-- `Bus.Write(b)` (R235). -/
def State.busWrite (s : State) (b : Byte) : State := s.emit (.write b)

/-- `Bus.Ack()` (R236). -/
def State.busAck (s : State) : State := s.emit .ack

/-- `Bus.Nack()` (R237). -/
def State.busNack (s : State) : State := s.emit .nack

/-- `Bus.Stop()` (R240); it releases the bus (R34). -/
def State.busStop (s : State) : State := { s with busHeld := false, trace := s.trace ++ [.stop] }

/-- `Bus.SetSpeed(t)` (R242), and the `SPEED <- t` that follows it (R125 to R127). -/
def State.setSpeed (s : State) (t : SpeedTier) : State :=
  { s with palSpeed := t, speed := t, trace := s.trace ++ [.setSpeed t] }

/-- What the next `Wait()` returns (R243). -/
def State.waitAnswer (s : State) : WaitAnswer := s.env.waits.headD (Config.waitDraw s.draws)

/-- The state after that `Wait()`. -/
def State.afterWait (s : State) : State :=
  { s with env := { s.env with waits := s.env.waits.tail }, draws := s.draws + 1,
           trace := s.trace ++ [.wait s.waitAnswer] }

/-- What the next `WaitRelease()` returns (R244). -/
def State.releaseAnswer (s : State) : WaitAnswer := s.env.releases.headD (Config.releaseDraw s.draws)

/-- The state after that `WaitRelease()`. -/
def State.afterRelease (s : State) : State :=
  { s with env := { s.env with releases := s.env.releases.tail }, draws := s.draws + 1,
           trace := s.trace ++ [.release s.releaseAnswer] }

/-- What the next `Bus.Status()` returns (R239). -/
def State.statusAnswer (s : State) : Byte := s.env.statuses.headD (Config.statusDraw s.draws)

/-- The state after `S <- Bus.Status()`. -/
def State.afterStatus (s : State) : State :=
  { s with sReg := s.statusAnswer, env := { s.env with statuses := s.env.statuses.tail }, draws := s.draws + 1,
           trace := s.trace ++ [.status s.statusAnswer] }

/-- What the next `Bus.Read()` returns (R238). -/
def State.dataAnswer (s : State) : Byte := s.env.datas.headD (Config.dataDraw s.draws)

/-- The state after `DB <- Bus.Read()`. -/
def State.afterRead (s : State) : State :=
  { s with dbReg := s.dataAnswer, env := { s.env with datas := s.env.datas.tail }, draws := s.draws + 1,
           trace := s.trace ++ [.read s.dataAnswer] }

/-- What the next `Bus.Reset()` returns (R241). -/
def State.resetAnswer (s : State) : ResetAnswer := s.env.resets.headD (Config.resetDraw s.draws)

/-- The state after that `Bus.Reset()`. -/
def State.afterReset (s : State) : State :=
  { s with env := { s.env with resets := s.env.resets.tail }, draws := s.draws + 1,
           trace := s.trace ++ [.reset s.resetAnswer] }

/-- The status the next `Tx` reports (R204). -/
def State.sendAnswer (s : State) : SendAnswer := s.env.sends.headD (Config.sendDraw s.draws)

/-- `Tx(b)` (R233); its status is recorded and ignored (R204). -/
def State.tx (s : State) (b : Byte) : State :=
  { s with env := { s.env with sends := s.env.sends.tail }, draws := s.draws + 1,
           trace := s.trace ++ [.tx b s.sendAnswer] }

/-! ### Fatal entry and bus reset -/

/-- `raise Fatal(code)`: the block's one exception entry. `MODE <- HALTED(code)`, and no stop is issued (R224). -/
def State.raiseFatal (s : State) (code : Nat) : State :=
  { s with mode := .halted code, trace := s.trace ++ [.fatal code] }

/-- `BusReset()` (R227): the call, then on `FAIL` the sub-state `fatal`, whose one call is the fatal entry, else what
the caller does next. It sets no error bit itself. -/
def busReset (fatal : Mode) (ok : State → State) (s : State) : Out :=
  match s.resetAnswer with
  | .ok => .next (ok s.afterReset)
  | .fail => .next (s.afterReset.goto fatal)

/-- `raise Fatal(FATAL_PERIPH)` after a failed bus reset: the next call, with nothing between (R227, R229 (e)). -/
def peripheralFatal (s : State) : Out := .next (s.raiseFatal Config.fatalPeriph)

/-! ### Sending a text or a report (R200, R203) -/

/-- Stands before the first byte of `txt`, or, where there is none, at what follows (R203). -/
def beginText (p : List Byte → Mode) (txt : List Byte) (done : State → State) (s : State) : State :=
  match txt with
  | [] => done s
  | b :: r => s.goto (p (b :: r))

/-- Sends the next byte of a text; after the last one, `done` (R203). -/
def sendText (p : List Byte → Mode) (rest : List Byte) (done : State → Out) (s : State) : Out :=
  match rest with
  | [] => done s
  | [b] => done (s.tx b)
  | b :: c :: r => .next ((s.tx b).goto (p (c :: r)))

/-! ### The walk's fetch (R141, R171) -/

/-- `XF` and `BF`: at `I = TB[0]` the walk goes to its cleanup at `stop`, else `T <- TB[I]` and the executor enters
the token. A slot that holds no token of the line is never read (R55). -/
def walkFetch (enter : State → Out) (stop : Mode) (s : State) : Out :=
  if s.iReg.toNat = s.tbLen then .next (s.goto stop)
  else
    match s.token s.iReg.toNat with
    | some w => enter { s with tReg := w }
    | none => .fault (.deadSlot s.iReg.toNat)

/-- `XN` and `BN`: `I <- I + 1`, then the fetch. -/
def walkAdvance (enter : State → Out) (stop : Mode) (s : State) : Out :=
  walkFetch enter stop { s with iReg := s.iReg + 1 }

/-- Standing before the token's first call, at `token`. -/
def standAt (token : Mode) (s : State) : Out := .next (s.goto token)

/-- Enters the fetched token: a read-count (R73, R142) takes its count test in the step that fetched it, because the
test issues no call and so is no step (R12 (b)); any other token stands before its first call. -/
def enterToken (token : Mode) (count : Word → State → Out) (s : State) : Out :=
  if s.rp = true ∧ s.tReg.toNat < Config.startBase then count s.tReg s else standAt token s

end Sys2Proof.Machine
end

