-- ==== Sys2Proof/Machine/Scanner.lean ====
section
/-!
DEFINITION. The bus scanner sequencer (44_scanner.md R185 to R197), one call a step.
-/

namespace Sys2Proof.Machine

/-- A sub-state of the scanner, as a mode. -/
def scanMode (p : ScanAt) : Mode := .adminop (.scan p)

/-- `SL`: the next probe, or the cleanup after the last one (R190). -/
def scanLoop (s : State) : State :=
  if s.aReg.toNat = Config.scanCount then s.goto (scanMode .stop) else s.goto (scanMode .start)

/-- `S0` (R186). -/
def scanEntry (s : State) : State := scanLoop { s with err := 0, aReg := 0 }

/-- `A <- A + 1 ; goto SL` (R190). -/
def scanAdvance (s : State) : State := scanLoop { s with aReg := s.aReg + 1 }

/-- The wait after a call of the sweep: on, or to `STO` (R187, R188, R191). -/
def scanWait (ok : ScanAt) (s : State) : Out :=
  match s.waitAnswer with
  | .done => .next (s.afterWait.goto (scanMode ok))
  | .timeout => .next (s.afterWait.goto (scanMode .timeout))

/-- The end of a scan: `LASTERR <- LASTERR | ERR`, and the line goes on (R192, R115). -/
def scanReturn (s : State) : State := s.foldErr.backToLine

/-- The next call of `Scan()` at a sub-state (R185). -/
def scanCall (p : ScanAt) (s : State) : Out :=
  match p with
  | .start => .next (s.busStart.goto (scanMode .startWait))
  | .startWait => scanWait .startStatus s
  | .startStatus =>
    if startAccepted s.statusAnswer then .next (s.afterStatus.goto (scanMode .addr))
    else .next ((s.afterStatus.flag .sf).goto (scanMode .stop))
  | .addr => .next ((s.busWrite (scanByte s.aReg)).goto (scanMode .addrWait))
  | .addrWait => scanWait .addrStatus s
  | .addrStatus =>
    if s.statusAnswer = Config.stAwAck then .next (s.afterStatus.goto (scanMode (.report (hexReport s.aReg))))
    else .next (scanAdvance s.afterStatus)
  | .report rest => sendText (fun r => scanMode (.report r)) rest (fun s => .next (scanAdvance s)) s
  | .timeout => busReset (scanMode .fatal) (fun s => (s.flag .bro).goto (scanMode .stop)) s
  | .stop => .next (s.busStop.goto (scanMode .release))
  | .release =>
    match s.releaseAnswer with
    | .done => .next (scanReturn s.afterRelease)
    | .timeout => .next (s.afterRelease.goto (scanMode .releaseReset))
  | .releaseReset => busReset (scanMode .fatal) (fun s => scanReturn (s.flag .bro)) s
  | .fatal => peripheralFatal s

end Sys2Proof.Machine
end

