-- ==== Sys2Proof/Machine/Admin.lean ====
section
/-!
DEFINITION. The administrative commands (41_admin.md R115 to R128). A meaning performs the command's next call: at a
sub-state of the command the call of that sub-state, anywhere else its beginning, which is what the lexer does
with the byte before the command's first call (R115; log 21).
-/

namespace Sys2Proof.Machine

/-- `ADMIN <- 1 ; MODE <- ADMINOP` (R115), then what the command does before its first call. -/
def beginAdmin (first : State → State) (s : State) : Out := .next (first s.markAdmin)

/-- The end of a command: the line goes on at `L1` (R115). -/
def endAdmin (s : State) : Out := .next s.backToLine

/-- A command that only sends a text (R121, R124, R128). -/
def beginSay (p : List Byte → AdminAt) (txt : List Byte) (s : State) : Out :=
  beginAdmin (beginText (fun r => .adminop (p r)) txt State.backToLine) s

@[inherit_doc beginSay] def say (p : List Byte → AdminAt) (rest : List Byte) (s : State) : Out :=
  sendText (fun r => .adminop (p r)) rest endAdmin s

/-! ### `@` (R118) -/

/-- `@`: the bus scan. -/
def execAScan (s : State) : Out :=
  match s.mode with
  | .adminop (.scan p) => scanCall p s
  | _ => beginAdmin scanEntry s

/-! ### `%` (R121, R122) -/

/-- `%`: `TxString(SPEED_REPORT(SPEED))`. -/
def execASpeed (s : State) : Out :=
  match s.mode with
  | .adminop (.speed rest) => say .speed rest s
  | _ => beginSay .speed (Config.speedReport s.speed) s

/-! ### `^` (R119, R120) -/

/-- After the report: `LASTERR <- 0`, then a bus reset if it was not 0 (R120). -/
def clearError (s : State) : Out :=
  if s.lasterr = 0 then .next s.backToLine
  else .next { s with lasterr := 0, mode := .adminop .errReset }

/-- `^`: report and clear the last error; the bus reset sets no bit and issues no stop (R120). -/
def execAErr (s : State) : Out :=
  match s.mode with
  | .adminop (.err rest) => sendText (fun r => .adminop (.err r)) rest clearError s
  | .adminop .errReset => busReset (.adminop .errFatal) State.backToLine s
  | .adminop .errFatal => peripheralFatal s
  | _ => beginAdmin (fun s => s.goto (.adminop (.err (hexReport s.lasterr)))) s

/-! ### `*` (R123) -/

/-- After the message: `ACC <- 0` (R123). -/
def endBcast (s : State) : State := { s with acc := 0 }.backToLine

/-- The message of the new flag (R123). -/
def bcastMsg (on : Bool) : List Byte := if on then Config.bcastOnMsg else Config.bcastOffMsg

/-- `*`: `BCAST <- (ACC != 0)` and its message, sent every time (R123). -/
def execABcast (s : State) : Out :=
  match s.mode with
  | .adminop (.bcast rest) => sendText (fun r => .adminop (.bcast r)) rest (fun s => .next (endBcast s)) s
  | _ =>
    beginAdmin (fun s =>
      beginText (fun r => .adminop (.bcast r)) (bcastMsg (s.acc != 0)) endBcast { s with bcast := s.acc != 0 }) s

/-! ### `H`, `I` (R124, R128) -/

/-- `TxString(HELP_TEXT)` (R124). -/
def helpCommand (s : State) : Out :=
  match s.mode with
  | .adminop (.help rest) => say .help rest s
  | _ => beginSay .help Config.helpText s

/-- `TxString(IDENT_TEXT)` (R128). -/
def identCommand (s : State) : Out :=
  match s.mode with
  | .adminop (.ident rest) => say .ident rest s
  | _ => beginSay .ident Config.identText s

/-- `H` (R124). -/
def execAHelp (s : State) : Out := helpCommand s
/-- `h`, folded to `H` (R63, R124). -/
def execAHelpLc (s : State) : Out := helpCommand s
/-- `I` (R128). -/
def execAIdent (s : State) : Out := identCommand s
/-- `i`, folded to `I` (R63, R128). -/
def execAIdentLc (s : State) : Out := identCommand s

/-! ### `S`, `T`, `V` (R125 to R127) -/

/-- `Bus.SetSpeed(t) ; SPEED <- t ; TxString(SPEED_SET_REPLY(t))`. -/
def speedCommand (t : SpeedTier) (s : State) : Out :=
  match s.mode with
  | .adminop (.setSpeed _) =>
    .next (beginText (fun r => .adminop (.speedReply t r)) (Config.speedSetReply t) State.backToLine (s.setSpeed t))
  | .adminop (.speedReply _ rest) => say (.speedReply t) rest s
  | _ => beginAdmin (fun s => s.goto (.adminop (.setSpeed t))) s

/-- `S`: standard, 100 kHz (R125). -/
def execAStd (s : State) : Out := speedCommand .std s
/-- `s`, folded to `S` (R63, R125). -/
def execAStdLc (s : State) : Out := speedCommand .std s
/-- `T`: fast, 400 kHz (R126). -/
def execAFast (s : State) : Out := speedCommand .fast s
/-- `t`, folded to `T` (R63, R126). -/
def execAFastLc (s : State) : Out := speedCommand .fast s
/-- `V`: very-slow, 10 kHz (R127). -/
def execAVslow (s : State) : Out := speedCommand .vslow s
/-- `v`, folded to `V` (R63, R127). -/
def execAVslowLc (s : State) : Out := speedCommand .vslow s

/-- The command whose sub-state `p` is; a letter stands folded (R63; log 21). -/
def AdminAt.instr : AdminAt → Instr
  | .scan _ => .aScan
  | .speed _ => .aSpeed
  | .err _ => .aErr
  | .errReset | .errFatal => .aErr
  | .bcast _ => .aBcast
  | .help _ => .aHelp
  | .ident _ => .aIdent
  | .setSpeed t => speedInstr t
  | .speedReply t _ => speedInstr t
where
  /-- The command that sets a tier. -/
  speedInstr : SpeedTier → Instr
  | .std => .aStd
  | .fast => .aFast
  | .vslow => .aVslow

end Sys2Proof.Machine
end

