-- ==== Sys2Proof/Machine/Checked.lean ====
section
/-!
DEFINITION. The Arbitration-checked executor (42_exec_checked.md R140 to R165), one call a step. A sub-state of
another token than the one asked for counts as the token's beginning (log 21).
-/

namespace Sys2Proof.Machine

/-- Abort: the kind is flagged and the walk goes to its cleanup (R154, R230). -/
def checkedAbort (k : ErrKind) (s : State) : Out := .next ((s.flag k).goto (.execChecked .stop))

/-- The wait after a bus operation: on, or to `XTO` (R153, R229 (a)). -/
def checkedWait (ok : State → Out) (s : State) : Out :=
  match s.waitAnswer with
  | .done => ok s.afterWait
  | .timeout => .next (s.afterWait.goto (.execChecked .timeout))

/-- XR.0, the count test of a read-count of value `n`, which issues no call: a count of 0 flags NBR and aborts,
another one stands before its first byte (R148). -/
def checkedCount (n : Word) (s : State) : Out :=
  if n = 0 then checkedAbort .nbr { s with nReg := n }
  else .next { s with nReg := n, kReg := 1, mode := .execChecked .readCall }

/-- How the checked executor enters a fetched token: `XS`, `XR` or `XW` (R140, R142). -/
def checkedEnter : State → Out := enterToken (.execChecked .token) checkedCount

/-- `XN`. -/
def checkedAdvance (s : State) : Out := walkAdvance checkedEnter (.execChecked .stop) s

/-- A start token with address byte `ab`: XS.1 to XS.6 (R143 to R147). `AB` takes its value after the accepted start
status, before the write (R12 (b), R144). -/
def checkedStart (ab : Byte) (p : CheckedAt) (s : State) : Out :=
  match p with
  | .startWait => checkedWait (fun s => .next (s.goto (.execChecked .startStatus))) s
  | .startStatus =>
    if startAccepted s.statusAnswer then .next ({ s.afterStatus with abReg := ab }.goto (.execChecked .addr))
    else checkedAbort .sf s.afterStatus
  | .addr => .next ((s.busWrite s.abReg).goto (.execChecked .addrWait))
  | .addrWait => checkedWait (fun s => .next (s.goto (.execChecked .addrStatus))) s
  | .addrStatus =>
    if addrAccepted s.abReg s.statusAnswer then
      checkedAdvance { s.afterStatus with rp := readPhase s.statusAnswer }
    else checkedAbort .an s.afterStatus
  | _ => .next (s.busStart.goto (.execChecked .startWait))

/-- Whether the byte being read is the last of the count (R149, R150). -/
def State.lastByte (s : State) : Bool := decide (s.nReg.toNat ≤ s.kReg.toNat)

/-- The bytes reported for a read byte: the hex report, and LF after the last (R149, R150). -/
def readOutput (last : Bool) (b : Byte) : List Byte := hexReport b ++ if last then [Config.lf] else []

/-- A read-count token of value `n`: XR.1 to XR.5 (R148 to R151). In a walk it is entered at its first byte; anywhere
else it begins with its count test (log 21). -/
def checkedRead (n : Word) (p : CheckedAt) (s : State) : Out :=
  match p with
  | .readCall => .next ((if s.lastByte then s.busNack else s.busAck).goto (.execChecked .readWait))
  | .readWait => checkedWait (fun s => .next (s.goto (.execChecked .readStatus))) s
  | .readStatus =>
    if s.statusAnswer = readExpected s.lastByte then .next (s.afterStatus.goto (.execChecked .readData))
    else checkedAbort (readFailure s.lastByte) s.afterStatus
  | .readData => .next (s.afterRead.goto (.execChecked (.readReport (readOutput s.lastByte s.dataAnswer))))
  | .readReport rest =>
    sendText (fun r => .execChecked (.readReport r)) rest (fun s =>
      if s.lastByte then checkedAdvance { s with rp := false }
      else .next { s with kReg := s.kReg + 1, mode := .execChecked .readCall }) s
  | _ => checkedCount n s

/-- A data token written: XW.1 and XW.2 (R152). No status is read. -/
def checkedWrite (v : Word) (p : CheckedAt) (s : State) : Out :=
  match p with
  | .writeWait => checkedWait checkedAdvance s
  | _ => .next ((s.busWrite (writeByte v)).goto (.execChecked .writeWait))

/-- `X0`: walk entry, then the fetch (R141). -/
def checkedEntry (s : State) : Out :=
  walkFetch checkedEnter (.execChecked .stop) { s with err := 0, iReg := 1, rp := false }

/-- The walk's return: the result into `LASTERR`, then the session loop (R160, R231). -/
def checkedReturn (s : State) : State := s.foldErr.startLine

/-- XTO (R153). -/
def checkedTimeout (s : State) : Out := busReset (.execChecked .fatal) (fun s => (s.flag .bro).goto (.execChecked .stop)) s

/-- CL.1 (R156). -/
def checkedStop (s : State) : Out := .next (s.busStop.goto (.execChecked .release))

/-- CL.2 (R156). -/
def checkedRelease (s : State) : Out :=
  match s.releaseAnswer with
  | .done => .next (checkedReturn s.afterRelease)
  | .timeout => .next (s.afterRelease.goto (.execChecked .releaseReset))

/-- CL.3 (R156). -/
def checkedReleaseReset (s : State) : Out := busReset (.execChecked .fatal) (fun s => checkedReturn (s.flag .bro)) s

end Sys2Proof.Machine
end

