-- ==== Sys2Proof/Machine/Broadcast.lean ====
section
/-!
DEFINITION. The Broadcast executor (43_exec_broadcast.md R170 to R179), one call a step: no status is compared, no
bit is set, a read-count of 0 reads nothing. A sub-state of another token than the one asked for counts as the
token's beginning (log 21).
-/

namespace Sys2Proof.Machine

/-- The wait after a bus operation: on, or to `BTO` (R176). -/
def bcastWait (ok : State → Out) (s : State) : Out :=
  match s.waitAnswer with
  | .done => ok s.afterWait
  | .timeout => .next (s.afterWait.goto (.execBcast .timeout))

/-- `BN` with `RP = 0`, or before a token that is no read-count: the next token stands before its first call. -/
def bcastStand (s : State) : Out := walkAdvance (standAt (.execBcast .token)) (.execBcast .stop) s

/-- The count test of a read-count of value `n`, which issues no call: a count of 0 reads nothing and the walk goes
on, another one stands before its first byte (R174). -/
def bcastCount (n : Word) (s : State) : Out :=
  if n = 0 then bcastStand { s with nReg := n, rp := false }
  else .next { s with nReg := n, kReg := 1, mode := .execBcast .readCall }

/-- How the Broadcast executor enters a fetched token. -/
def bcastEnter : State → Out := enterToken (.execBcast .token) bcastCount

/-- `BN`. -/
def bcastAdvance (s : State) : Out := walkAdvance bcastEnter (.execBcast .stop) s

/-- A start token with address byte `ab` (R172, R173). `AB` takes its value after the start's wait (R12 (b)). -/
def bcastStart (ab : Byte) (p : BcastAt) (s : State) : Out :=
  match p with
  | .startWait => bcastWait (fun s => .next ({ s with abReg := ab }.goto (.execBcast .addr))) s
  | .addr => .next ((s.busWrite s.abReg).goto (.execBcast .addrWait))
  | .addrWait => bcastWait (fun s => .next (s.goto (.execBcast .addrStatus))) s
  | .addrStatus => bcastAdvance { s.afterStatus with rp := readPhase s.statusAnswer }
  | _ => .next (s.busStart.goto (.execBcast .startWait))

/-- A read-count token of value `n` (R174). In a walk it is entered at its first byte; anywhere else it begins with
its count test. -/
def bcastRead (n : Word) (p : BcastAt) (s : State) : Out :=
  match p with
  | .readCall => .next ((if s.lastByte then s.busNack else s.busAck).goto (.execBcast .readWait))
  | .readWait => bcastWait (fun s => .next (s.goto (.execBcast .readData))) s
  | .readData => .next (s.afterRead.goto (.execBcast (.readReport (readOutput s.lastByte s.dataAnswer))))
  | .readReport rest =>
    sendText (fun r => .execBcast (.readReport r)) rest (fun s =>
      if s.lastByte then bcastAdvance { s with rp := false }
      else .next { s with kReg := s.kReg + 1, mode := .execBcast .readCall }) s
  | _ => bcastCount n s

/-- A data token written (R175). -/
def bcastWrite (v : Word) (p : BcastAt) (s : State) : Out :=
  match p with
  | .writeWait => bcastWait bcastAdvance s
  | _ => .next ((s.busWrite (writeByte v)).goto (.execBcast .writeWait))

/-- `B0`: walk entry, then the fetch (R171). `ERR <- 0` as R29 says of both variants (log 9). -/
def bcastEntry (s : State) : Out :=
  walkFetch bcastEnter (.execBcast .stop) { s with err := 0, iReg := 1, rp := false }

/-- BTO (R176). -/
def bcastTimeout (s : State) : Out := busReset (.execBcast .fatal) (fun s => s.goto (.execBcast .stop)) s

/-- BCLEAN (R177). -/
def bcastStop (s : State) : Out := .next (s.busStop.goto (.execBcast .release))

@[inherit_doc bcastStop] def bcastRelease (s : State) : Out :=
  match s.releaseAnswer with
  | .done => .next s.afterRelease.startLine
  | .timeout => .next (s.afterRelease.goto (.execBcast .releaseReset))

@[inherit_doc bcastStop] def bcastReleaseReset (s : State) : Out := busReset (.execBcast .fatal) State.startLine s

end Sys2Proof.Machine
end

