-- ==== Sys2Proof/Machine/Tokens.lean ====
section
/-!
DEFINITION. The four Command Words. A meaning performs the token's next call in the executor that runs it: the
Broadcast executor in `EXEC_BCAST`, else the checked one (40_lexer.md R106, 42_exec_checked.md R142).
-/

namespace Sys2Proof.Machine

/-- The next call of a start token, in either executor (R143, R172). -/
def startCommand (ab : Byte) (s : State) : Out :=
  match s.mode with
  | .execBcast p => bcastStart ab p s
  | .execChecked p => checkedStart ab p s
  | _ => checkedStart ab .token s

/-- START_W: a start token in write direction (R143 to R145, R147, R172, R173). Bits 15..8 are dropped (R71). -/
def execStartW (_hi : Byte) (a : Address) (s : State) : Out := startCommand (addrByte a false) s

/-- START_R: a start token in read direction (R143, R144, R146, R147, R172, R173). -/
def execStartR (_hi : Byte) (a : Address) (s : State) : Out := startCommand (addrByte a true) s

/-- READ_COUNT (R148 to R151, R174). -/
def execReadCount (n : Word) (s : State) : Out :=
  match s.mode with
  | .execBcast p => bcastRead n p s
  | .execChecked p => checkedRead n p s
  | _ => checkedRead n .token s

/-- DATA_WRITE (R152, R175). -/
def execDataWrite (v : Word) (s : State) : Out :=
  match s.mode with
  | .execBcast p => bcastWrite v p s
  | .execChecked p => checkedWrite v p s
  | _ => checkedWrite v .token s

end Sys2Proof.Machine
end

