-- ==== Sys2Proof/Machine/EndOfLine.lean ====
section
/-!
DEFINITION. The end of a line (40_lexer.md R96, R106) and, as part of it, the calls of the dispatched executor that
belong to no token: the timeout reset, the cleanup and, after a failed reset, the fatal entry (42_exec_checked.md
R153, R156; 43_exec_broadcast.md R176, R177; 60_exceptions.md R227).
-/

namespace Sys2Proof.Machine

/-- `LD` (R106): a line with an administrative command runs no executor; else the one `BCAST` selects. -/
def dispatchLine (s : State) : Out :=
  if s.admin then .next s.startLine
  else if s.bcast then bcastEntry s
  else checkedEntry s

/-- EOL: `goto LD` on the byte (R96), at `LD` the dispatch, and in a walk the executor's own calls (log 21). -/
def execEol (s : State) : Out :=
  match s.mode with
  | .lex .ld => dispatchLine s
  | .execChecked .timeout => checkedTimeout s
  | .execChecked .stop => checkedStop s
  | .execChecked .release => checkedRelease s
  | .execChecked .releaseReset => checkedReleaseReset s
  | .execChecked .fatal => peripheralFatal s
  | .execBcast .timeout => bcastTimeout s
  | .execBcast .stop => bcastStop s
  | .execBcast .release => bcastRelease s
  | .execBcast .releaseReset => bcastReleaseReset s
  | .execBcast .fatal => peripheralFatal s
  | _ => .next (s.goto (.lex .ld))

end Sys2Proof.Machine
end

