-- ==== Sys2Proof/Machine/Lexer.lean ====
section
/-!
DEFINITION. The characters of the lexer that are no administrative command (40_lexer.md R95 to R105): hex digits,
terminators and ignored bytes. `EOL` is in EndOfLine.lean.
-/

namespace Sys2Proof.Machine

/-- A hex digit of value `d` (R95). -/
def pushDigit (d : Byte) (s : State) : Out := .next { s with acc := accPush s.acc d }

/-- A terminator: `Append(v) ; ACC <- 0` (R97 to R102). An append past the last slot cannot happen in a run, as the
capacity is tested before each `Rx()` (R103). -/
def appendToken (v : Word) (s : State) : Out :=
  if s.tbLen < Config.tbCap then .next { s with tb := appendSlot s.tb v, acc := 0 }
  else .fault (.slotOutOfRange s.tbLen)

/-- `0` (R95). -/
def execHex0 (s : State) : Out := pushDigit 0 s
/-- `1` (R95). -/
def execHex1 (s : State) : Out := pushDigit 1 s
/-- `2` (R95). -/
def execHex2 (s : State) : Out := pushDigit 2 s
/-- `3` (R95). -/
def execHex3 (s : State) : Out := pushDigit 3 s
/-- `4` (R95). -/
def execHex4 (s : State) : Out := pushDigit 4 s
/-- `5` (R95). -/
def execHex5 (s : State) : Out := pushDigit 5 s
/-- `6` (R95). -/
def execHex6 (s : State) : Out := pushDigit 6 s
/-- `7` (R95). -/
def execHex7 (s : State) : Out := pushDigit 7 s
/-- `8` (R95). -/
def execHex8 (s : State) : Out := pushDigit 8 s
/-- `9` (R95). -/
def execHex9 (s : State) : Out := pushDigit 9 s
/-- `A` (R95). -/
def execHexA (s : State) : Out := pushDigit 10 s
/-- `B` (R95). -/
def execHexB (s : State) : Out := pushDigit 11 s
/-- `C` (R95). -/
def execHexC (s : State) : Out := pushDigit 12 s
/-- `D` (R95). -/
def execHexD (s : State) : Out := pushDigit 13 s
/-- `E` (R95). -/
def execHexE (s : State) : Out := pushDigit 14 s
/-- `F` (R95). -/
def execHexF (s : State) : Out := pushDigit 15 s
/-- `a`, folded to `A` (R63, R95). -/
def execHexALc (s : State) : Out := pushDigit 10 s
/-- `b`, folded to `B` (R63, R95). -/
def execHexBLc (s : State) : Out := pushDigit 11 s
/-- `c`, folded to `C` (R63, R95). -/
def execHexCLc (s : State) : Out := pushDigit 12 s
/-- `d`, folded to `D` (R63, R95). -/
def execHexDLc (s : State) : Out := pushDigit 13 s
/-- `e`, folded to `E` (R63, R95). -/
def execHexELc (s : State) : Out := pushDigit 14 s
/-- `f`, folded to `F` (R63, R95). -/
def execHexFLc (s : State) : Out := pushDigit 15 s

/-- `!`: start token, write direction (R97). -/
def execTSw (s : State) : Out := appendToken (startToken s.acc false) s
/-- `?`: start token, read direction (R98). -/
def execTSr (s : State) : Out := appendToken (startToken s.acc true) s
/-- `$`: literal data token (R99). -/
def execTData (s : State) : Out := appendToken (dataToken s.acc 0) s
/-- `&`: data token, block intent (R100). -/
def execTBlk (s : State) : Out := appendToken (dataToken s.acc Config.ofsBlock) s
/-- `#`: data token, block and PEC intent (R101). -/
def execTPec (s : State) : Out := appendToken (dataToken s.acc Config.ofsPec) s

/-- An ignored byte has no effect at all (R67, R104). -/
def execIgnore (_b : Byte) (s : State) : Out := .next s

end Sys2Proof.Machine
end

