-- ==== Sys2Proof/Machine/Dispatch.lean ====
section
/-!
DEFINITION. The dispatch of an instruction to its meaning, one arm a row of spec/opcode_table.json.
-/

namespace Sys2Proof.Machine

def exec (i : Instr) (s : State) : Host.Outcome State Fault Refusal :=
  match i with
  | .hex0 => Sys2Proof.Machine.execHex0 s
  | .hex1 => Sys2Proof.Machine.execHex1 s
  | .hex2 => Sys2Proof.Machine.execHex2 s
  | .hex3 => Sys2Proof.Machine.execHex3 s
  | .hex4 => Sys2Proof.Machine.execHex4 s
  | .hex5 => Sys2Proof.Machine.execHex5 s
  | .hex6 => Sys2Proof.Machine.execHex6 s
  | .hex7 => Sys2Proof.Machine.execHex7 s
  | .hex8 => Sys2Proof.Machine.execHex8 s
  | .hex9 => Sys2Proof.Machine.execHex9 s
  | .hexA => Sys2Proof.Machine.execHexA s
  | .hexB => Sys2Proof.Machine.execHexB s
  | .hexC => Sys2Proof.Machine.execHexC s
  | .hexD => Sys2Proof.Machine.execHexD s
  | .hexE => Sys2Proof.Machine.execHexE s
  | .hexF => Sys2Proof.Machine.execHexF s
  | .hexALc => Sys2Proof.Machine.execHexALc s
  | .hexBLc => Sys2Proof.Machine.execHexBLc s
  | .hexCLc => Sys2Proof.Machine.execHexCLc s
  | .hexDLc => Sys2Proof.Machine.execHexDLc s
  | .hexELc => Sys2Proof.Machine.execHexELc s
  | .hexFLc => Sys2Proof.Machine.execHexFLc s
  | .tSw => Sys2Proof.Machine.execTSw s
  | .tSr => Sys2Proof.Machine.execTSr s
  | .tData => Sys2Proof.Machine.execTData s
  | .tBlk => Sys2Proof.Machine.execTBlk s
  | .tPec => Sys2Proof.Machine.execTPec s
  | .aScan => Sys2Proof.Machine.execAScan s
  | .aSpeed => Sys2Proof.Machine.execASpeed s
  | .aErr => Sys2Proof.Machine.execAErr s
  | .aBcast => Sys2Proof.Machine.execABcast s
  | .aHelp => Sys2Proof.Machine.execAHelp s
  | .aHelpLc => Sys2Proof.Machine.execAHelpLc s
  | .aIdent => Sys2Proof.Machine.execAIdent s
  | .aIdentLc => Sys2Proof.Machine.execAIdentLc s
  | .aStd => Sys2Proof.Machine.execAStd s
  | .aStdLc => Sys2Proof.Machine.execAStdLc s
  | .aFast => Sys2Proof.Machine.execAFast s
  | .aFastLc => Sys2Proof.Machine.execAFastLc s
  | .aVslow => Sys2Proof.Machine.execAVslow s
  | .aVslowLc => Sys2Proof.Machine.execAVslowLc s
  | .eol => Sys2Proof.Machine.execEol s
  | .ignore b => Sys2Proof.Machine.execIgnore b s
  | .startW hi a => Sys2Proof.Machine.execStartW hi a s
  | .startR hi a => Sys2Proof.Machine.execStartR hi a s
  | .readCount n => Sys2Proof.Machine.execReadCount n s
  | .dataWrite v => Sys2Proof.Machine.execDataWrite v s

end Sys2Proof.Machine
end

