-- ==== Sys2Proof/Machine/Fetch.lean ====
section
/-!
DEFINITION. What the block does next: which instruction the coming step runs, and on what state (10_state.md R31,
R32; 40_lexer.md R90). The walk's own fetch is `walkFetch` in Ops.lean.
-/

namespace Sys2Proof.Machine

/-- What the coming step is. -/
inductive Fetch
  /-- `HALTED`: no step (R224). -/
  | halted (code : Nat)
  /-- Waiting in `Rx()` with no byte there (R92, R261). -/
  | waiting (s : State)
  /-- The capacity is reached (R103). -/
  | overflow (s : State)
  /-- The next call of an instruction, after the `Rx()` that brought it if it is a new character. -/
  | run (i : Instr) (s : State)
  deriving DecidableEq, Repr

/-- The sub-states of a walk that belong to its current token; the others are the executor's own. -/
def CheckedAt.inToken : CheckedAt → Bool
  | .timeout | .stop | .release | .releaseReset | .fatal => false
  | _ => true

@[inherit_doc CheckedAt.inToken] def BcastAt.inToken : BcastAt → Bool
  | .timeout | .stop | .release | .releaseReset | .fatal => false
  | _ => true

/-- `L1`: the capacity test, then `Rx()` and the byte's decoding (R90, R92 to R94, R103). -/
def State.receive (s : State) : Fetch :=
  if s.tbLen = Config.tbCap then .overflow s
  else
    match s.input with
    | [] => .waiting s
    | b :: rest => .run (decodeChar b) (s.rx b rest)

/-- The coming step. In a walk the current instruction is what `T` decodes to in read phase `RP` (R142). -/
def State.fetch (s : State) : Fetch :=
  match s.mode with
  | .halted code => .halted code
  | .lex .l0 => s.startLine.receive
  | .lex .l1 => s.receive
  | .lex .ld => .run .eol s
  | .adminop p => .run p.instr s
  | .execChecked p => if p.inToken then .run (decodeWord s.rp s.tReg) s else .run .eol s
  | .execBcast p => if p.inToken then .run (decodeWord s.rp s.tReg) s else .run .eol s

/-- Stores a character where the next step receives it. A block that is not at `L0` or `L1`, or whose buffer is
full, is put at a line start's `L1` (log 18). -/
def State.withChar (s : State) (b : Byte) : State :=
  let t := { s with input := b :: s.input }
  match s.mode with
  | .lex .l0 => t
  | .lex .l1 => if s.tbLen = Config.tbCap then t.startLine else t
  | _ => t.startLine

/-- Stores a Command Word as the line's one token, fetched and about to run in the executor that `BCAST` selects
(log 18). -/
def State.withWord (s : State) (w : Word) : State :=
  { s with tb := writeSlot (writeSlot s.tb 1 w) 0 2, iReg := 1, tReg := w,
           mode := if s.bcast then .execBcast .token else .execChecked .token }

end Sys2Proof.Machine
end

