-- ==== Sys2Proof/Machine/Step.lean ====
section
/-!
DEFINITION. One step of the block (00_scope.md R12): one interface call with the register updates that follow it, or
the end-of-line dispatch.
-/

namespace Sys2Proof.Machine

/-- One step. In `HALTED` there is none (R224; log 4); with no input the block stays in `Rx()` (R92, R261; log 3). -/
def step (s : State) : Host.Outcome State Fault Refusal :=
  match s.fetch with
  | .halted code => .fault (.halted code)
  | .waiting t => .next t
  | .overflow t => .next (t.raiseFatal Config.fatalOverflow)
  | .run i t => exec i t

/-- `s` with the instruction of `nbits` bits `w` stored where `step` fetches its next instruction. -/
def State.withFetchWord (s : State) (nbits w : Nat) : State :=
  match tableCode nbits w with
  | some (.char b) => s.withChar b
  | some (.word v) => s.withWord v
  | none => s

end Sys2Proof.Machine
end

