-- ==== Sys2Proof/Safety.lean ====
section
/-!
DEFINITION. The terms in which claims about the block are made: runs of several steps, what the trace shows outside
(20_memory.md R51), and the invariants of the block.
-/

namespace Sys2Proof.Machine

/-! ### Runs -/

/-- `k` steps; a run that stops answers its stop. -/
def steps : Nat → State → Out
  | 0, s => .next s
  | k + 1, s =>
    match step s with
    | .next t => steps k t
    | .fault f => .fault f
    | .refused r => .refused r

/-- `k` steps from `s` lead to `t`. -/
def Reaches (k : Nat) (s t : State) : Prop := steps k s = .next t

/-! ### What the trace shows (R50, R51) -/

/-- The byte of a `Tx` event. -/
def Event.sent : Event → Option Byte
  | .tx b _ => some b
  | _ => none

/-- The serial output stream: the bytes of the `Tx` events, in order (R50 (d), R58). -/
def State.output (s : State) : List Byte := s.trace.filterMap Event.sent

/-- Whether an event is a bus operation issued to the PAL with completion awaited by `Wait()` (R53). -/
def Event.awaited : Event → Bool
  | .start | .write _ | .ack | .nack => true
  | _ => false

/-- An event without the send status, which the block ignores (R204). -/
def Event.plain : Event → Event
  | .tx b _ => .tx b .sent
  | e => e

/-- What a call returned, by the kind of call: the answers a trace took from the environment (R13, R51). -/
def Event.waited : Event → Option WaitAnswer
  | .wait a => some a
  | _ => none
@[inherit_doc Event.waited] def Event.released : Event → Option WaitAnswer
  | .release a => some a
  | _ => none
@[inherit_doc Event.waited] def Event.received : Event → Option Byte
  | .read b => some b
  | _ => none
@[inherit_doc Event.waited] def Event.wasReset : Event → Option ResetAnswer
  | .reset a => some a
  | _ => none
@[inherit_doc Event.waited] def Event.statusRead : Event → Option Byte
  | .status b => some b
  | _ => none

/-- The statuses read after an address or data byte was written and its wait returned: in a checked walk, the address
statuses (R144, R152, R173). -/
def addressStatuses : List Event → List Byte
  | .write _ :: .wait _ :: .status y :: r => y :: addressStatuses r
  | _ :: r => addressStatuses r
  | [] => []

/-- What R179 compares: the events but for the status reads, without the send statuses. -/
def besideStatus (es : List Event) : List Event :=
  (es.filter fun e => e.statusRead.isNone).map Event.plain

/-- How many `Rx` events a trace holds. -/
def rxCount (t : List Event) : Nat := t.countP fun
  | .rx _ => true
  | _ => false

/-! ### The order of events (R53) -/

/-- Whether `f` may come directly after `e`: a bus operation is followed by its wait, a stop by the release wait, an
expired wait by the bus reset (R53, R226), a failed reset by the fatal entry (R227), nothing follows that (R224);
a status is read only after a wait that was done, a byte only after that wait or its status (R53). -/
def mayFollow (e f : Event) : Bool :=
  match e with
  | .start | .write _ | .ack | .nack => match f with | .wait _ => true | _ => false
  | .stop => match f with | .release _ => true | _ => false
  | .wait .timeout | .release .timeout => match f with | .reset _ => true | _ => false
  | .reset .fail => match f with | .fatal _ => true | _ => false
  | .fatal _ => false
  | .wait .done => match f with | .wait _ | .release _ => false | _ => true
  | .status _ => match f with | .wait _ | .release _ | .status _ => false | _ => true
  | _ => match f with | .wait _ | .release _ | .status _ | .read _ => false | _ => true

/-- Every event may follow the one before it. -/
def orderOk : List Event → Bool
  | e :: f :: r => mayFollow e f && orderOk (f :: r)
  | _ => true

/-- What the last event is when the block rests at a sub-state. -/
inductive Due
  /-- An operation whose wait is due. -/
  | wait
  /-- A stop whose release wait is due. -/
  | release
  /-- A done wait, after which a status or a byte may be read. -/
  | doneWait
  /-- A status, after which its byte may be read. -/
  | status
  /-- An expired `Wait()` or `WaitRelease()`. -/
  | waitReset
  | releaseReset
  /-- A failed bus reset. -/
  | resetFail
  /-- The fatal entry. -/
  | nothing
  /-- Nothing in particular is due. -/
  | free
  deriving DecidableEq, Repr

/-- Whether the last event of a trace, if any, is as a sub-state asks. -/
def Due.fits (d : Due) (last : Option Event) : Bool :=
  match d, last with
  | .wait, some e => e.awaited
  | .release, some .stop => true
  | .doneWait, some (.wait .done) => true
  | .status, some (.status _) => true
  | .waitReset, some (.wait .timeout) => true
  | .releaseReset, some (.release .timeout) => true
  | .resetFail, some (.reset .fail) => true
  | .nothing, some (.fatal _) => true
  | .free, none => true
  | .free, some e =>
    match e with
    | .start | .write _ | .ack | .nack | .stop | .fatal _ => false
    | .wait .timeout | .release .timeout | .reset .fail => false
    | _ => true
  | _, _ => false

/-- What is due at a sub-state of the scanner. -/
def ScanAt.due : ScanAt → Due
  | .startWait | .addrWait => .wait
  | .startStatus | .addrStatus => .doneWait
  | .timeout => .waitReset
  | .release => .release
  | .releaseReset => .releaseReset
  | .fatal => .resetFail
  | .start | .addr | .report _ | .stop => .free

/-- What is due at a sub-state of the checked executor. -/
def CheckedAt.due : CheckedAt → Due
  | .startWait | .addrWait | .readWait | .writeWait => .wait
  | .startStatus | .addrStatus | .readStatus => .doneWait
  | .readData => .status
  | .timeout => .waitReset
  | .release => .release
  | .releaseReset => .releaseReset
  | .fatal => .resetFail
  | .token | .addr | .readCall | .readReport _ | .stop => .free

/-- What is due at a sub-state of the Broadcast executor. -/
def BcastAt.due : BcastAt → Due
  | .startWait | .addrWait | .readWait | .writeWait => .wait
  | .addrStatus | .readData => .doneWait
  | .timeout => .waitReset
  | .release => .release
  | .releaseReset => .releaseReset
  | .fatal => .resetFail
  | .token | .addr | .readCall | .readReport _ | .stop => .free

/-- What is due in a mode. -/
def Mode.due : Mode → Due
  | .adminop (.scan p) => p.due
  | .execChecked p => p.due
  | .execBcast p => p.due
  | .halted _ => .nothing
  | .adminop .errFatal => .resetFail
  | .lex _ | .adminop _ => .free

/-- The trace is ordered as R53 says, and what the mode waits for is what the last event left due. -/
def OrderInv (s : State) : Prop :=
  orderOk s.trace = true ∧ s.mode.due.fits s.trace.getLast? = true

/-! ### The Transaction Buffer and the walk (R27, R54, R55, R74, R141) -/

/-- A word the lexer can build (R70, R72, R74). -/
def lexedWord (w : Word) : Prop := w.toNat ≤ 257 ∨ (1000 ≤ w.toNat ∧ w.toNat ≤ 1255)

/-- The buffer is canonical, `TB[0]` lies in 1..260, and every slot of 1..`TB[0]` - 1 holds a token of the lexer. -/
def BufferInv (s : State) : Prop :=
  s.tb.wf = true ∧ 1 ≤ s.tbLen ∧ s.tbLen ≤ Config.tbCap ∧
    ∀ a, 1 ≤ a → a < s.tbLen → ∃ w, readSlot s.tb a = some w ∧ lexedWord w

/-- The current token is the one at `I`, a live slot (R141). -/
def TokenInv (s : State) : Prop := s.token s.iReg.toNat = some s.tReg

/-- The read loop is in its range: `N` is the count token, and `k` lies in 1..`N` (R148, R149). -/
def ReadInv (s : State) : Prop :=
  s.tReg.toNat < Config.startBase ∧ s.rp = true ∧ s.nReg = s.tReg ∧ 1 ≤ s.kReg.toNat ∧
    s.kReg.toNat ≤ s.nReg.toNat

/-- The current token is a start token. -/
def StartInv (s : State) : Prop := Config.startBase ≤ s.tReg.toNat

/-- ... whose address byte has been formed (R144). -/
def AddrInv (s : State) : Prop :=
  StartInv s ∧ s.abReg = (s.tReg - BitVec.ofNat _ Config.startBase).setWidth 8

/-- The current token is a byte to write. -/
def WriteInv (s : State) : Prop := s.tReg.toNat < Config.startBase ∧ s.rp = false

/-- What holds at a sub-state of the checked executor. -/
def CheckedAt.inv (p : CheckedAt) (s : State) : Prop :=
  match p with
  | .token => TokenInv s ∧ (StartInv s ∨ WriteInv s)
  | .startWait | .startStatus => TokenInv s ∧ StartInv s
  | .addr | .addrWait | .addrStatus => TokenInv s ∧ AddrInv s
  | .readCall | .readWait | .readStatus | .readData | .readReport _ => TokenInv s ∧ ReadInv s
  | .writeWait => TokenInv s ∧ WriteInv s
  | .timeout | .stop | .release | .releaseReset | .fatal => True

/-- What holds at a sub-state of the Broadcast executor. -/
def BcastAt.inv (p : BcastAt) (s : State) : Prop :=
  match p with
  | .token => TokenInv s ∧ (StartInv s ∨ WriteInv s)
  | .startWait => TokenInv s ∧ StartInv s
  | .addr | .addrWait | .addrStatus => TokenInv s ∧ AddrInv s
  | .readCall | .readWait | .readData | .readReport _ => TokenInv s ∧ ReadInv s
  | .writeWait => TokenInv s ∧ WriteInv s
  | .timeout | .stop | .release | .releaseReset | .fatal => True

/-- A walk runs only on a line that fits (R103), and its registers agree with the token it is at. -/
def WalkInv (s : State) : Prop :=
  match s.mode with
  | .lex .ld => s.tbLen < Config.tbCap
  | .execChecked p => s.tbLen < Config.tbCap ∧ p.inv s
  | .execBcast p => s.tbLen < Config.tbCap ∧ p.inv s
  | _ => True

/-! ### Error bits (R80, R81, R155) -/

/-- The arbitration-lost and the reserved bit are 0 in ERR and LASTERR (R81). -/
def ReservedBitsInv (s : State) : Prop :=
  s.err.getLsbD (Config.errBit .al).val = false ∧ s.err.getLsbD (Config.errBit .rsv).val = false ∧
    s.lasterr.getLsbD (Config.errBit .al).val = false ∧ s.lasterr.getLsbD (Config.errBit .rsv).val = false

/-- The kinds one abort can set (R155). -/
def abortKinds : List ErrKind := [.sf, .an, .dra, .drn, .nbr, .bro]

/-- No failure, or exactly one. -/
def OneFailure (e : ErrMask) : Prop := e = 0 ∨ ∃ k ∈ abortKinds, e = errMask k

/-- No failure, one, or one together with BRO (R155). -/
def WalkResult (e : ErrMask) : Prop := OneFailure e ∨ ∃ k ∈ abortKinds, e = errMask k ||| errMask .bro

/-- `ERR` at a sub-state: 0 while the walk or the sweep goes on, one failure at most from the abort on, and a
result of R155 once it has returned. -/
def ErrInv (s : State) : Prop :=
  match s.mode with
  | .execChecked p => if p.inToken || p == .timeout then s.err = 0 else OneFailure s.err
  | .adminop (.scan p) =>
    match p with
    | .stop | .release | .releaseReset | .fatal => OneFailure s.err
    | _ => s.err = 0
  | .execBcast _ => s.err = 0
  | _ => WalkResult s.err

/-! ### The bus and the speed (R34, R250, R252, R254) -/

/-- The modes in which the bus may be held: a walk or a sweep before its stop, and the fatal halt. -/
def Mode.mayHold : Mode → Bool
  | .execChecked .release | .execChecked .releaseReset => false
  | .execBcast .release | .execBcast .releaseReset => false
  | .adminop (.scan .release) | .adminop (.scan .releaseReset) => false
  | .execChecked _ | .execBcast _ | .adminop (.scan _) | .halted _ => true
  | .lex _ | .adminop _ => false

/-- Outside those modes the bus is not held (R254). -/
def BusInv (s : State) : Prop := s.mode.mayHold = false → s.busHeld = false

/-- `SPEED` and the PAL's speed agree (R250, R252). -/
def SpeedInv (s : State) : Prop := s.palSpeed = s.speed

/-- The block is halted only by one of the two fatal codes (R223). -/
def HaltInv (s : State) : Prop :=
  ∀ c, s.mode = .halted c → c = Config.fatalOverflow ∨ c = Config.fatalPeriph

/-- The scan counter is in range while probing (R190). -/
def ScanInv (s : State) : Prop :=
  match s.mode with
  | .adminop (.scan p) =>
    match p with
    | .timeout | .stop | .release | .releaseReset | .fatal => s.aReg.toNat ≤ Config.scanCount
    | _ => s.aReg.toNat < Config.scanCount
  | _ => True

/-- The input position is the number of bytes received (R32). -/
def PositionInv (s : State) : Prop := s.inPos = rxCount s.trace

/-! ### Steps and calls (R12) -/

/-- The bytes that a sub-state of a report or text has yet to send (R203). -/
def AdminAt.unsent : AdminAt → Option (List Byte)
  | .scan (.report r) => some r
  | .speed r | .err r | .bcast r | .help r | .ident r | .speedReply _ r => some r
  | .scan _ | .errReset | .errFatal | .setSpeed _ => none

@[inherit_doc AdminAt.unsent] def Mode.unsent : Mode → Option (List Byte)
  | .adminop p => p.unsent
  | .execChecked (.readReport r) | .execBcast (.readReport r) => some r
  | .execChecked _ | .execBcast _ | .lex _ | .halted _ => none

/-- A report or text under way has a byte left to send. -/
def SendInv (s : State) : Prop := s.mode.unsent ≠ some []

/-! ### Words for what a run does -/

/-- `es` are the events of sending `txt`, with whatever send statuses (R203, R204). -/
def SendEvents (txt : List Byte) (es : List Event) : Prop :=
  ∃ answers : List SendAnswer, answers.length = txt.length ∧ es = List.zipWith Event.tx txt answers

/-- The walk can go on after the token at `I`: the line ends there, or the next slot holds a token (R141). -/
def WalkGoesOn (s : State) : Prop :=
  s.iReg.toNat + 1 ≤ s.tbLen ∧ s.tbLen < Config.tbCap ∧
    (s.iReg.toNat + 1 < s.tbLen → ∃ w, readSlot s.tb (s.iReg.toNat + 1) = some w)

/-- Every slot of the line after the current token holds a token (R27), and the line fits (R103). -/
def LineGoesOn (s : State) : Prop :=
  s.iReg.toNat + 1 ≤ s.tbLen ∧ s.tbLen < Config.tbCap ∧
    ∀ a, s.iReg.toNat < a → a < s.tbLen → ∃ w, readSlot s.tb a = some w

/-- `t` stands where the walk of `s` goes after its token: at the next token, fetched, or at the cleanup (R141). -/
def AtNextToken (token stop : Mode) (s t : State) : Prop :=
  t.iReg.toNat = s.iReg.toNat + 1 ∧
    (s.iReg.toNat + 1 = s.tbLen → t.mode = stop ∧ t.tReg = s.tReg) ∧
    (s.iReg.toNat + 1 < s.tbLen → t.mode = token ∧ readSlot s.tb (s.iReg.toNat + 1) = some t.tReg)

/-- `t` is where the walk of `s` goes after its token when the next token is no read-count or is none (R141). -/
def GoesOn (token stop : Mode) (s t : State) : Prop :=
  (s.iReg.toNat + 1 = s.tbLen → t = { s with iReg := s.iReg + 1, mode := stop }) ∧
    ∀ w, s.iReg.toNat + 1 < s.tbLen → readSlot s.tb (s.iReg.toNat + 1) = some w →
      t = { s with iReg := s.iReg + 1, tReg := w, mode := token }

/-- Where a checked walk goes from `s`, its token done: on as above, but in a read phase into a read-count at its
first byte, and with a count of 0 to the cleanup with NBR flagged (R141, R142, R148). -/
def CheckedGoesOn (s t : State) : Prop :=
  (s.iReg.toNat + 1 = s.tbLen → t = { s with iReg := s.iReg + 1, mode := .execChecked .stop }) ∧
    ∀ w, s.iReg.toNat + 1 < s.tbLen → readSlot s.tb (s.iReg.toNat + 1) = some w →
      (s.rp = false ∨ 1000 ≤ w.toNat → t = { s with iReg := s.iReg + 1, tReg := w, mode := .execChecked .token }) ∧
      (s.rp = true → w.toNat < 1000 → w ≠ 0 →
        t = { s with iReg := s.iReg + 1, tReg := w, nReg := w, kReg := 1, mode := .execChecked .readCall }) ∧
      (s.rp = true → w = 0 →
        t = { s with iReg := s.iReg + 1, tReg := 0, nReg := 0, err := s.err ||| errMask .nbr,
                     mode := .execChecked .stop })

/-- Where a Broadcast walk goes from `s`, its token done: on as above, but in a read phase into a read-count at its
first byte, and past a count of 0, which ends the read phase (R171, R173, R174). -/
def BcastGoesOn (s t : State) : Prop :=
  (s.iReg.toNat + 1 = s.tbLen → t = { s with iReg := s.iReg + 1, mode := .execBcast .stop }) ∧
    ∀ w, s.iReg.toNat + 1 < s.tbLen → readSlot s.tb (s.iReg.toNat + 1) = some w →
      (s.rp = false ∨ 1000 ≤ w.toNat → t = { s with iReg := s.iReg + 1, tReg := w, mode := .execBcast .token }) ∧
      (s.rp = true → w.toNat < 1000 → w ≠ 0 →
        t = { s with iReg := s.iReg + 1, tReg := w, nReg := w, kReg := 1, mode := .execBcast .readCall }) ∧
      (s.rp = true → w = 0 →
        GoesOn (.execBcast .token) (.execBcast .stop)
          { s with iReg := s.iReg + 1, tReg := 0, nReg := 0, rp := false } t)

/-- The words a line's bytes store, from the accumulator it starts with: every terminator's token in order, by the
class of the folded byte (R95 to R101, R108). -/
def lineTokens : Byte → List Byte → List Word
  | _, [] => []
  | acc, b :: l =>
    match classOf (fold b) with
    | .hex d => lineTokens (accPush acc (d.setWidth 8)) l
    | .tSw => startToken acc false :: lineTokens 0 l
    | .tSr => startToken acc true :: lineTokens 0 l
    | .tData => dataToken acc 0 :: lineTokens 0 l
    | .tBlk => dataToken acc Config.ofsBlock :: lineTokens 0 l
    | .tPec => dataToken acc Config.ofsPec :: lineTokens 0 l
    | _ => lineTokens acc l

/-- A byte of a bus line: a hex digit, a terminator or an ignored byte (R64). -/
def busByte (b : Byte) : Bool :=
  match classOf (fold b) with
  | .hex _ | .tSw | .tSr | .tData | .tBlk | .tPec | .ignore => true
  | _ => false

/-- The bytes a sweep reports when the address statuses are `f`: every acknowledging address, in order (R189,
R196). -/
def sweepReports (f : Nat → Byte) : List Byte :=
  (List.range Config.scanCount).flatMap fun a =>
    if f a = Config.stAwAck then hexReport (BitVec.ofNat 8 a) else []

/-- The events of probing address `a`: six, and one report if it acknowledges (R187 to R189, R197); `g` and `f` are the
statuses after the start and after the address. -/
def probeEvents (g f : Nat → Byte) (a : Nat) : List Event :=
  [.start, .wait .done, .status (g a), .write (BitVec.ofNat 8 (2 * a)), .wait .done, .status (f a)] ++
    if f a = Config.stAwAck then (hexReport (BitVec.ofNat 8 a)).map (Event.tx · .sent) else []

/-- The events of a complete sweep, without the send statuses (R190, R192, R193, R197). -/
def sweepEvents (g f : Nat → Byte) : List Event :=
  (List.range Config.scanCount).flatMap (probeEvents g f) ++ [.stop, .release .done]

/-- The events of reading one byte `d`: ACK, or NACK for the last, its wait, in the checked executor the expected
status, the byte, and its report (R149, R150, R174). -/
def byteEvents (checked last : Bool) (d : Byte) : List Event :=
  [if last then .nack else .ack, .wait .done] ++ (if checked then [.status (readExpected last)] else []) ++
    .read d :: (readOutput last d).map (Event.tx · .sent)

/-- The events of a read-count token that reads the bytes `ds`, without the send statuses. -/
def readEvents (checked : Bool) : List Byte → List Event
  | [] => []
  | [d] => byteEvents checked true d
  | d :: e :: r => byteEvents checked false d ++ readEvents checked (e :: r)

/-- Whether a step waits for input: at `L1` with no byte there (R261, quiescent). -/
def Quiescent (s : State) : Prop := s.mode = .lex .l1 ∧ s.input = [] ∧ s.tbLen ≠ Config.tbCap

/-- Whether the block is in the session loop or has halted: no walk, sweep or command is under way. -/
def Settled (s : State) : Prop := s.mode = .lex .l1 ∨ ∃ c, s.mode = .halted c

end Sys2Proof.Machine
end

