-- ==== Sys2Proof/Certificates/Slice0/Obligations.lean ====
section
/-!
DEFINITION. The statements for the provers, one `def Obligations.<Name> : Prop` each. They speak of `exec`, `step` and
runs of `step`; where a run needs answers of the environment, its premises name them as the answers the state has
ready (00_scope.md R13).
-/

open Sys2Proof Sys2Proof.Machine

/-! ### Encoding (30_encoding.md) -/

/-- Decoding the encoding of a well-formed instruction, in a read phase it fits, gives the instruction (R83). -/
def Obligations.DecodeOfEncodeIsTheInstruction : Prop :=
  ∀ (rp : Bool) (i : Instr), i.wellFormed = true → i.fits rp = true → decode rp (encode i) = i

/-- Every byte and every word decodes to a well-formed instruction that fits the read phase, and encoding that gives
the byte or word back: no code is refused and no bit is dropped (R67, R74). -/
def Obligations.EncodeOfDecodeIsTheCode : Prop :=
  ∀ (rp : Bool) (c : Code),
    encode (decode rp c) = c ∧ (decode rp c).wellFormed = true ∧ (decode rp c).fits rp = true

/-- The decoder, which reads received bytes, agrees with folding first and classifying then (R63, R64). -/
def Obligations.DecoderFollowsFoldingAndClass : Prop :=
  ∀ b : Byte, (decodeChar b).charClass = some (classOf (fold b))

/-- The codes of R62 and R82 decode to the instructions they stand for. -/
def Obligations.WrittenCodesDecode : Prop :=
  [0x30, 0x66, 0x21, 0x3F, 0x24, 0x26, 0x23].map decodeChar =
      [.hex0, .hexFLc, .tSw, .tSr, .tData, .tBlk, .tPec] ∧
    [0x40, 0x25, 0x5E, 0x2A, 0x68, 0x49, 0x53, 0x74, 0x56, 0x0A, 0x0D].map decodeChar =
      [.aScan, .aSpeed, .aErr, .aBcast, .aHelpLc, .aIdent, .aStd, .aFastLc, .aVslow, .eol, .ignore 0x0D] ∧
    decodeWord false 1160 = .startW 0 0x50 ∧ decodeWord true 1161 = .startR 0 0x50 ∧
    decodeWord false 160 = .dataWrite 160 ∧ decodeWord true 160 = .readCount 160

/-- The start token of an accumulator and a direction: its value, its range and parity, and its decoding (R70). -/
def Obligations.StartTokenIsItsAddressAndDirection : Prop :=
  ∀ (rp : Bool) (acc : Byte) (d : Bool),
    (startToken acc d).toNat = 1000 + (2 * (acc.toNat % 128) + d.toNat) ∧
      1000 ≤ (startToken acc d).toNat ∧ (startToken acc d).toNat ≤ 1255 ∧
      ((startToken acc d).toNat % 2 = 0 ↔ d = false) ∧
      decodeWord rp (startToken acc d) =
        if d then .startR 0 (acc.setWidth _) else .startW 0 (acc.setWidth _)

/-- The address byte of a start token is `(t - 1000)[7:0]` for every word of 1000 or above, and its two parts are
the operands (R71). -/
def Obligations.AddressByteIsTheLowByteOfTheOffset : Prop :=
  ∀ (rp : Bool) (t : Word), 1000 ≤ t.toNat →
    ∃ hi a d, decodeWord rp t = (if d then .startR hi a else .startW hi a) ∧
      (addrByte a d).toNat = (t.toNat - 1000) % 256 ∧
      (addrByte a d).toNat = 2 * a.toNat + d.toNat

/-! ### The step (00_scope.md R12, 10_state.md R31) -/

/-- A step runs the decoded instruction: at `L1` (from `L0` after the line start) the received byte's, with the byte
taken and recorded; in a command, the command's; in a token, the one `T` decodes to in read phase `RP`; at `LD` and
at the executors' own sub-states, the end of line. -/
def Obligations.StepRunsTheDecodedInstruction : Prop :=
  ∀ s : State,
    (∀ b rest, s.mode = .lex .l1 → s.tbLen ≠ Config.tbCap → s.input = b :: rest →
      step s = exec (decode s.rp (.char b))
        { s with input := rest, inPos := s.inPos + 1, trace := s.trace ++ [.rx b] }) ∧
    (∀ b rest, s.mode = .lex .l0 → s.input = b :: rest →
      step s = exec (decode s.rp (.char b))
        { s with acc := 0, tb := writeSlot s.tb 0 1, admin := false, mode := .lex .l1,
                 input := rest, inPos := s.inPos + 1, trace := s.trace ++ [.rx b] }) ∧
    (s.mode = .lex .ld → step s = exec .eol s) ∧
    (∀ p, s.mode = .adminop p → step s = exec p.instr s) ∧
    (∀ p, s.mode = .execChecked p →
      step s = if p.inToken then exec (decode s.rp (.word s.tReg)) s else exec .eol s) ∧
    (∀ p, s.mode = .execBcast p →
      step s = if p.inToken then exec (decode s.rp (.word s.tReg)) s else exec .eol s)

/-- While it waits in `Rx()` the block performs no event and keeps its state (R92). -/
def Obligations.WaitingForInputChangesNothing : Prop :=
  ∀ s : State, s.mode = .lex .l1 → s.tbLen ≠ Config.tbCap → s.input = [] → step s = .next s

/-- At `L1` with 259 tokens stored the block halts with the overflow code and reads no byte; below that it never
does (R103). -/
def Obligations.OverflowHaltsBeforeTheNextByte : Prop :=
  ∀ s : State, s.mode = .lex .l1 →
    (s.tbLen = 260 →
      step s = .next { s with mode := .halted Config.fatalOverflow,
                              trace := s.trace ++ [.fatal Config.fatalOverflow] }) ∧
    (s.tbLen < 260 → ∀ t, step s = .next t → ∀ c, t.mode ≠ .halted c)

/-- The fatal entry sets the mode and issues nothing else, and from `HALTED` there is no further step (R224). -/
def Obligations.HaltedIsFinal : Prop :=
  ∀ (s : State) (c : Nat),
    s.raiseFatal c = { s with mode := .halted c, trace := s.trace ++ [.fatal c] } ∧
      (s.mode = .halted c → step s = .fault (.halted c))

/-! ### Reset (70_reset_and_hazards.md) -/

/-- The reset table, for the state to which it gives a value (R250). -/
def Obligations.ResetTableHolds : Prop :=
  State.reset.speed = .std ∧ State.reset.bcast = false ∧ State.reset.lasterr = 0x00 ∧ State.reset.acc = 0 ∧
    State.reset.admin = false ∧ State.reset.tbLen = 1 ∧ State.reset.mode = .lex .l0 ∧ State.reset.inPos = 0 ∧
    State.reset.palSpeed = .std ∧ State.reset.busHeld = false

/-- The first step after power-on starts the line and takes the first byte; with none there it sends nothing and
waits (R251). -/
def Obligations.FirstStepReceivesTheFirstByte : Prop :=
  (∀ b rest, ∃ u, u.acc = 0 ∧ u.tbLen = 1 ∧ u.admin = false ∧ u.mode = .lex .l1 ∧ u.trace = [.rx b] ∧
      u.input = rest ∧ u.inPos = 1 ∧
      step { State.reset with input := b :: rest } = exec (decodeChar b) u) ∧
    ∃ u, step State.reset = .next u ∧ u.trace = [] ∧ u.mode = .lex .l1 ∧ step u = .next u

/-! ### The lexer (40_lexer.md) -/

/-- Every hex digit, in either case, accumulates and changes nothing else (R95). -/
def Obligations.HexDigitsAccumulate : Prop :=
  ∀ p ∈ ([(.hex0, 0), (.hex1, 1), (.hex2, 2), (.hex3, 3), (.hex4, 4), (.hex5, 5), (.hex6, 6), (.hex7, 7),
      (.hex8, 8), (.hex9, 9), (.hexA, 10), (.hexB, 11), (.hexC, 12), (.hexD, 13), (.hexE, 14), (.hexF, 15),
      (.hexALc, 10), (.hexBLc, 11), (.hexCLc, 12), (.hexDLc, 13), (.hexELc, 14), (.hexFLc, 15)] :
      List (Instr × Nat)),
    ∀ s : State, ∃ t, exec p.1 s = .next t ∧ t.acc.toNat = (s.acc.toNat * 16 + p.2) % 256 ∧
      t = { s with acc := t.acc }

/-- `!` and `?` store the start token at `TB[0]`, move the counter on and clear the accumulator; every other slot
and everything else stays, and a full buffer then halts (R97, R98). -/
def Obligations.StartTerminatorsStoreTheirToken : Prop :=
  ∀ p ∈ ([(.tSw, 0), (.tSr, 1)] : List (Instr × Nat)), ∀ s : State, 1 ≤ s.tbLen → s.tbLen < 260 →
    ∃ t w, exec p.1 s = .next t ∧ w.toNat = 1000 + (2 * (s.acc.toNat % 128) + p.2) ∧
      readSlot t.tb s.tbLen = some w ∧ t.tbLen = s.tbLen + 1 ∧
      (∀ a, a ≠ 0 → a ≠ s.tbLen → readSlot t.tb a = readSlot s.tb a) ∧
      t = { s with tb := t.tb, acc := 0 } ∧
      (s.tbLen = 259 → s.mode = .lex .l1 → step t = .next (t.raiseFatal Config.fatalOverflow))

/-- `$`, `&` and `#` store the accumulator plus 0, 1 or 2, not reduced; the rest as for a start token (R99, R100,
R101). -/
def Obligations.DataTerminatorsStoreTheirToken : Prop :=
  ∀ p ∈ ([(.tData, 0), (.tBlk, 1), (.tPec, 2)] : List (Instr × Nat)), ∀ s : State, 1 ≤ s.tbLen → s.tbLen < 260 →
    ∃ t w, exec p.1 s = .next t ∧ w.toNat = s.acc.toNat + p.2 ∧
      readSlot t.tb s.tbLen = some w ∧ t.tbLen = s.tbLen + 1 ∧
      (∀ a, a ≠ 0 → a ≠ s.tbLen → readSlot t.tb a = readSlot s.tb a) ∧
      t = { s with tb := t.tb, acc := 0 } ∧
      (s.tbLen = 259 → s.mode = .lex .l1 → step t = .next (t.raiseFatal Config.fatalOverflow))

/-- The model's own stop (log 6): a terminator past the last slot, an index the spec says does not exist (R54),
faults. -/
def Obligations.AppendPastTheLastSlotFaults : Prop :=
  ∀ i ∈ ([.tSw, .tSr, .tData, .tBlk, .tPec] : List Instr), ∀ s : State, 260 ≤ s.tbLen →
    exec i s = .fault (.slotOutOfRange s.tbLen)

/-- An ignored byte has no effect at all (R104). -/
def Obligations.IgnoredBytesHaveNoEffect : Prop :=
  ∀ (b : Byte) (s : State), exec (.ignore b) s = .next s

/-- The end-of-line byte goes to the dispatch, and changes nothing else (R96). -/
def Obligations.EndOfLineGoesToDispatch : Prop :=
  ∀ s : State, s.mode = .lex .l1 → exec .eol s = .next { s with mode := .lex .ld }

/-- The dispatch (R106): after an administrative command the next line starts, with every slot above slot 0 left as
it was (R91); else the executor that `BCAST` selects enters its walk at the first token, or at its cleanup when
there is none (R141, R171; `ERR` in a broadcast walk: log 9). -/
def Obligations.DispatchSelectsTheExecutor : Prop :=
  ∀ s : State, s.mode = .lex .ld →
    (s.admin = true →
      ∃ t, exec .eol s = .next t ∧ t.tbLen = 1 ∧ (∀ a, a ≠ 0 → readSlot t.tb a = readSlot s.tb a) ∧
        t = { s with acc := 0, tb := t.tb, admin := false, mode := .lex .l1 }) ∧
    (s.admin = false → s.tbLen = 1 →
      exec .eol s = .next { s with err := 0, iReg := 1, rp := false,
                                   mode := if s.bcast then .execBcast .stop else .execChecked .stop }) ∧
    (∀ w, s.admin = false → 1 < s.tbLen → readSlot s.tb 1 = some w →
      exec .eol s = .next { s with err := 0, iReg := 1, rp := false, tReg := w,
                                   mode := if s.bcast then .execBcast .token else .execChecked .token })

/-- A line of digits, terminators and ignored bytes is stored token by token: after it the counter has moved on by
the number of terminators and the new slots hold the line's words, whatever the digits left over (R105, R108). -/
def Obligations.LexerStoresTheTokensOfTheLine : Prop :=
  ∀ (s : State) (l rest : List Byte),
    s.mode = .lex .l1 → 1 ≤ s.tbLen → s.input = l ++ rest → (∀ b ∈ l, busByte b = true) →
    s.tbLen + (lineTokens s.acc l).length < 260 →
    ∃ t, Reaches l.length s t ∧ t.mode = .lex .l1 ∧ t.input = rest ∧ t.inPos = s.inPos + l.length ∧
      t.tbLen = s.tbLen + (lineTokens s.acc l).length ∧
      (∀ j w, (lineTokens s.acc l)[j]? = some w → readSlot t.tb (s.tbLen + j) = some w) ∧
      (∀ a, a ≠ 0 → a < s.tbLen → readSlot t.tb a = readSlot s.tb a) ∧
      t = { s with acc := t.acc, tb := t.tb, input := t.input, inPos := t.inPos,
                   trace := s.trace ++ l.map Event.rx }

/-! ### Administrative commands (41_admin.md) -/

/-- `%`, `H` and `I` (the letters in either case) mark the line, send their text byte by byte and go on with the
line (R115, R121, R124, R128). -/
def Obligations.TextCommandsSendTheirText : Prop :=
  ∀ s : State, s.mode = .lex .l1 →
    ∀ p ∈ ([(.aSpeed, Config.speedReport s.speed), (.aHelp, Config.helpText), (.aHelpLc, Config.helpText),
        (.aIdent, Config.identText), (.aIdentLc, Config.identText)] : List (Instr × List Byte)),
      ∃ t1 t es, exec p.1 s = .next t1 ∧ Reaches p.2.length t1 t ∧ SendEvents p.2 es ∧
        t = { s with admin := true, env := { s.env with sends := s.env.sends.drop p.2.length },
                     draws := s.draws + p.2.length, trace := s.trace ++ es }

/-- The speed report is at least one digit, the trailing digit, which is `0` for very-slow and standard, and LF
(R122). -/
def Obligations.SpeedReportHasItsForm : Prop :=
  ∀ t : SpeedTier, ∃ (ds : List Byte) (z : Byte), Config.speedReport t = ds ++ [z] ++ [0x0A] ∧ ds ≠ [] ∧
    (∀ d ∈ ds, 0x30 ≤ d.toNat ∧ d.toNat ≤ 0x39) ∧ 0x30 ≤ z.toNat ∧ z.toNat ≤ 0x39 ∧
    (t = .vslow → z = 0x30) ∧ (t = .std → z = 0x30)

/-- `^` reports `LASTERR` in hex, clears it, and resets the bus if it was not zero; a reset that fails halts
(R119, R120). That the report's last step clears it is log 20; that the fatal entry is a step of its own, the second
of the two, is log 5. -/
def Obligations.ErrorCommandReportsClearsAndResets : Prop :=
  ∀ s : State, s.mode = .lex .l1 →
    ∃ t1 t es, exec .aErr s = .next t1 ∧ Reaches 3 t1 t ∧ SendEvents (hexReport s.lasterr) es ∧
      t = { s with admin := true, lasterr := 0, env := { s.env with sends := s.env.sends.drop 3 },
                   draws := s.draws + 3, trace := s.trace ++ es,
                   mode := if s.lasterr = 0 then .lex .l1 else .adminop .errReset } ∧
      (s.lasterr ≠ 0 → ∀ rs, s.env.resets = .ok :: rs →
        step t = .next { t with env := { t.env with resets := rs }, draws := t.draws + 1,
                                trace := t.trace ++ [.reset .ok], mode := .lex .l1 }) ∧
      (s.lasterr ≠ 0 → ∀ rs, s.env.resets = .fail :: rs →
        Reaches 2 t { t with env := { t.env with resets := rs }, draws := t.draws + 1,
                             trace := t.trace ++ [.reset .fail, .fatal Config.fatalPeriph],
                             mode := .halted Config.fatalPeriph })

/-- `*` sets the flag to whether the accumulator is not zero, sends the message of the new value every time, and
clears the accumulator (R123). -/
def Obligations.BroadcastCommandSetsTheFlag : Prop :=
  ∀ (s : State) (msg : List Byte), s.mode = .lex .l1 →
    msg = (if s.acc = 0 then Config.bcastOffMsg else Config.bcastOnMsg) →
    ∃ t1 t es, exec .aBcast s = .next t1 ∧ Reaches msg.length t1 t ∧ SendEvents msg es ∧
      t = { s with admin := true, bcast := decide (s.acc ≠ 0), acc := 0,
                   env := { s.env with sends := s.env.sends.drop msg.length },
                   draws := s.draws + msg.length, trace := s.trace ++ es }

/-- `S`, `T` and `V` (in either case) select the tier in the PAL and in `SPEED`, send their reply and go on with
the line; no wait follows (R125, R126, R127; the PAL's speed as a field: log 15). -/
def Obligations.SpeedCommandsSelectTheTier : Prop :=
  ∀ p ∈ ([(.aStd, .std), (.aStdLc, .std), (.aFast, .fast), (.aFastLc, .fast), (.aVslow, .vslow),
      (.aVslowLc, .vslow)] : List (Instr × SpeedTier)), ∀ s : State, s.mode = .lex .l1 →
    ∃ t1 t es, exec p.1 s = .next t1 ∧ Reaches (1 + (Config.speedSetReply p.2).length) t1 t ∧
      SendEvents (Config.speedSetReply p.2) es ∧
      t = { s with admin := true, speed := p.2, palSpeed := p.2,
                   env := { s.env with sends := s.env.sends.drop (Config.speedSetReply p.2).length },
                   draws := s.draws + (Config.speedSetReply p.2).length,
                   trace := s.trace ++ [.setSpeed p.2] ++ es }

/-! ### The scanner (44_scanner.md) -/

/-- `@`: a sweep in which every wait is done and every start accepted probes every address in order, reports
exactly the acknowledging ones, sets no error bit, stops and releases the bus once, and goes on with the line; its
events are six an address, three more a report, and two, in that order (R118, R186, R190, R196, R197; bus ownership: log 15). -/
def Obligations.SweepReportsTheAcknowledgingAddresses : Prop :=
  ∀ (s : State) (g f : Nat → Byte) (ws : List WaitAnswer) (rs : List WaitAnswer) (ss : List Byte),
    s.mode = .lex .l1 → (∀ a, g a = 0x08 ∨ g a = 0x10) →
    s.env.waits = List.replicate (2 * Config.scanCount) .done ++ ws →
    s.env.statuses = (List.range Config.scanCount).flatMap (fun a => [g a, f a]) ++ ss →
    s.env.releases = .done :: rs →
    ∃ t1 t, exec .aScan s = .next t1 ∧
      t1 = { s with admin := true, err := 0, aReg := 0, mode := .adminop (.scan .start) } ∧
      Reaches (6 * Config.scanCount + (sweepReports f).length + 2) t1 t ∧
      t.output = s.output ++ sweepReports f ∧
      (∃ es, t.trace = s.trace ++ es ∧ es.map Event.plain = sweepEvents g f) ∧
      t = { s with admin := true, err := 0, aReg := BitVec.ofNat 8 Config.scanCount, sReg := t.sReg,
                   busHeld := false, env := t.env, draws := t.draws, trace := t.trace }

/-- A probe whose start is refused flags SF and ends the sweep: stop, release, `LASTERR` (R187, R192). -/
def Obligations.RefusedStartEndsTheSweep : Prop :=
  ∀ (s : State) (x : Byte) (ws rs : List WaitAnswer) (ss : List Byte),
    s.mode = .adminop (.scan .start) → s.env.waits = .done :: ws → s.env.statuses = x :: ss →
    s.env.releases = .done :: rs → x ≠ 0x08 → x ≠ 0x10 →
    exec .aScan s = .next { s with busHeld := true, trace := s.trace ++ [.start],
                                   mode := .adminop (.scan .startWait) } ∧
      Reaches 5 s
        { s with err := s.err ||| errMask .sf, lasterr := s.lasterr ||| (s.err ||| errMask .sf), sReg := x,
                 busHeld := false, mode := .lex .l1, draws := s.draws + 3,
                 env := { s.env with waits := ws, statuses := ss, releases := rs },
                 trace := s.trace ++ [.start, .wait .done, .status x, .stop, .release .done] }

/-- An expired wait of the sweep resets the bus once, flags BRO and ends the sweep (R191, R192); an expired release
resets it and flags BRO too (R192; bus ownership: log 15). -/
def Obligations.ExpiredWaitEndsTheSweep : Prop :=
  (∀ (s : State) (ws rl : List WaitAnswer) (rs : List ResetAnswer),
    s.mode = .adminop (.scan .startWait) ∨ s.mode = .adminop (.scan .addrWait) →
    s.env.waits = .timeout :: ws → s.env.resets = .ok :: rs → s.env.releases = .done :: rl →
    Reaches 4 s
      { s with err := s.err ||| errMask .bro, lasterr := s.lasterr ||| (s.err ||| errMask .bro),
               busHeld := false, mode := .lex .l1, draws := s.draws + 3,
               env := { s.env with waits := ws, resets := rs, releases := rl },
               trace := s.trace ++ [.wait .timeout, .reset .ok, .stop, .release .done] }) ∧
  (∀ (s : State) (rl : List WaitAnswer) (rs : List ResetAnswer),
    s.mode = .adminop (.scan .stop) → s.env.releases = .timeout :: rl → s.env.resets = .ok :: rs →
    Reaches 3 s
      { s with err := s.err ||| errMask .bro, lasterr := s.lasterr ||| (s.err ||| errMask .bro),
               busHeld := false, mode := .lex .l1, draws := s.draws + 2,
               env := { s.env with resets := rs, releases := rl },
               trace := s.trace ++ [.stop, .release .timeout, .reset .ok] })

/-! ### The reporter (45_reporter.md) -/

/-- A hex report is the high digit, the low digit and the terminator, in ASCII, upper case (R79, R200). -/
def Obligations.HexReportIsTwoDigitsAndTheTerminator : Prop :=
  ∀ b : Byte, ∃ x y : Byte, hexReport b = [x, y, Config.hexTerm] ∧
    x.toNat = (if b.toNat / 16 < 10 then 0x30 + b.toNat / 16 else 0x41 + b.toNat / 16 - 10) ∧
    y.toNat = (if b.toNat % 16 < 10 then 0x30 + b.toNat % 16 else 0x41 + b.toNat % 16 - 10)

/-! ### The checked executor (42_exec_checked.md) -/

/-- A start token whose waits are done and whose statuses are accepted issues start, address and its two status
reads, sets the read phase by the address status, and the walk goes on, to the next token or, where that is a
read-count, to its first byte or, with NBR, to the cleanup (R143 to R148; the bus is held from the start on, R34 as
log 15 models it). -/
def Obligations.CheckedStartTokenAddressesTheFollower : Prop :=
  ∀ (s : State) (i : Instr) (hi : Byte) (a : Address) (d : Bool) (x y : Byte) (ws : List WaitAnswer)
    (ss : List Byte),
    i = (if d then .startR hi a else .startW hi a) → s.mode = .execChecked .token →
    decodeWord s.rp s.tReg = i → WalkGoesOn s →
    s.env.waits = .done :: .done :: ws → s.env.statuses = x :: y :: ss → (x = 0x08 ∨ x = 0x10) →
    (y = 0x18 ∨ (d = true ∧ y = 0x40)) →
    ∃ t1 t, exec i s = .next t1 ∧
      t1 = { s with busHeld := true, trace := s.trace ++ [.start], mode := .execChecked .startWait } ∧
      Reaches 5 t1 t ∧
      CheckedGoesOn
        { s with busHeld := true, abReg := addrByte a d, sReg := y, rp := decide (y = 0x40), draws := s.draws + 4,
                 env := { s.env with waits := ws, statuses := ss },
                 trace := s.trace ++ [.start, .wait .done, .status x, .write (addrByte a d), .wait .done,
                                      .status y] } t

/-- A start whose status is neither code flags SF and goes to the cleanup, with no address sent (R143; the bus counts
as held: log 15). -/
def Obligations.CheckedStartRefusedFlagsStartFail : Prop :=
  ∀ (s : State) (i : Instr) (hi : Byte) (a : Address) (d : Bool) (x : Byte) (ws : List WaitAnswer)
    (ss : List Byte),
    i = (if d then .startR hi a else .startW hi a) → s.mode = .execChecked .token →
    decodeWord s.rp s.tReg = i → s.env.waits = .done :: ws → s.env.statuses = x :: ss → x ≠ 0x08 → x ≠ 0x10 →
    ∃ t1, exec i s = .next t1 ∧
      Reaches 2 t1
        { s with busHeld := true, sReg := x, err := s.err ||| errMask .sf, mode := .execChecked .stop,
                 draws := s.draws + 2, env := { s.env with waits := ws, statuses := ss },
                 trace := s.trace ++ [.start, .wait .done, .status x] }

/-- An address phase with a status that is not accepted flags AN and goes to the cleanup: for a write any but 0x18,
for a read any but 0x18 and 0x40 (R145, R146; the bus is held from the start on, R34 as log 15 models it). -/
def Obligations.CheckedAddressRefusedFlagsAddressNack : Prop :=
  ∀ (s : State) (i : Instr) (hi : Byte) (a : Address) (d : Bool) (x y : Byte) (ws : List WaitAnswer)
    (ss : List Byte),
    i = (if d then .startR hi a else .startW hi a) → s.mode = .execChecked .token →
    decodeWord s.rp s.tReg = i → s.env.waits = .done :: .done :: ws → s.env.statuses = x :: y :: ss →
    (x = 0x08 ∨ x = 0x10) → y ≠ 0x18 → (d = true → y ≠ 0x40) →
    ∃ t1, exec i s = .next t1 ∧
      Reaches 5 t1
        { s with busHeld := true, abReg := addrByte a d, sReg := y, err := s.err ||| errMask .an,
                 mode := .execChecked .stop, draws := s.draws + 4,
                 env := { s.env with waits := ws, statuses := ss },
                 trace := s.trace ++ [.start, .wait .done, .status x, .write (addrByte a d), .wait .done,
                                      .status y] }

/-- A read-count after a read address answered with 0x40: the step of that status fetches it and loads `N`; a count
of 0 flags NBR and goes to the cleanup, with no bus operation and no output, any other goes on to its first byte
(R141, R146 to R148; the count test is no step of its own, R12 and log 1; `kReg` is log 19). -/
def Obligations.CheckedZeroCountFlagsNoBytes : Prop :=
  ∀ (s : State) (hi : Byte) (a : Address) (n : Word) (ss : List Byte),
    s.mode = .execChecked .addrStatus → s.abReg = addrByte a true → s.iReg.toNat + 1 < s.tbLen →
    s.tbLen < Config.tbCap → readSlot s.tb (s.iReg.toNat + 1) = some n → n.toNat < 1000 →
    s.env.statuses = 0x40 :: ss →
    ∃ u : State,
      u = { s with sReg := 0x40, rp := true, iReg := s.iReg + 1, tReg := n, nReg := n, draws := s.draws + 1,
                   env := { s.env with statuses := ss }, trace := s.trace ++ [.status 0x40] } ∧
      exec (.startR hi a) s =
        .next (if n = 0 then { u with err := s.err ||| errMask .nbr, mode := .execChecked .stop }
          else { u with kReg := 1, mode := .execChecked .readCall })

/-- A read-count token, from its first byte, whose bytes all come with the expected codes reports every byte in order,
ends the line of output with LF, ends the read phase, and the walk goes on (R148 to R151). Asked for at a token's
beginning, where no run holds a read-count, it performs its count test (log 1, log 21; `kReg` is log 19). -/
def Obligations.CheckedReadCountReportsEveryByte : Prop :=
  (∀ (s : State) (n : Word) (ds dd ss : List Byte) (ws : List WaitAnswer),
    s.mode = .execChecked .readCall → ReadInv s → s.tReg = n → s.kReg = 1 → WalkGoesOn s →
    ds.length = n.toNat → s.env.waits = List.replicate n.toNat .done ++ ws →
    s.env.statuses = List.replicate (n.toNat - 1) 0x50 ++ 0x58 :: ss → s.env.datas = ds ++ dd →
    ∃ t1 t, exec (.readCount n) s = .next t1 ∧
      t1 = { s with trace := s.trace ++ [if n = 1 then .nack else .ack], mode := .execChecked .readWait } ∧
      Reaches (7 * n.toNat) t1 t ∧
      AtNextToken (.execChecked .token) (.execChecked .stop) s t ∧
      t.output = s.output ++ ds.flatMap hexReport ++ [0x0A] ∧
      (∃ es, t.trace = s.trace ++ es ∧ es.map Event.plain = readEvents true ds) ∧
      t = { s with kReg := n, sReg := 0x58, dbReg := t.dbReg, rp := false, iReg := t.iReg, tReg := t.tReg,
                   mode := t.mode, draws := t.draws, env := t.env, trace := t.trace }) ∧
  ∀ (s : State) (n : Word), s.mode = .execChecked .token →
    exec (.readCount n) s =
      .next (if n = 0 then { s with nReg := n, err := s.err ||| errMask .nbr, mode := .execChecked .stop }
        else { s with nReg := n, kReg := 1, mode := .execChecked .readCall })

/-- A read byte whose status is not the expected code flags DRA, or DRN on the last byte, goes to the cleanup and
reports nothing for it (R149, R150). -/
def Obligations.CheckedReadFailureFlagsItsKind : Prop :=
  ∀ (s : State) (n : Word) (x : Byte) (ss : List Byte),
    s.mode = .execChecked .readStatus → ReadInv s → s.tReg = n → s.env.statuses = x :: ss →
    (s.kReg.toNat < n.toNat → x ≠ 0x50 →
      exec (.readCount n) s = .next { s with sReg := x, err := s.err ||| errMask .dra, draws := s.draws + 1,
                                             mode := .execChecked .stop, trace := s.trace ++ [.status x],
                                             env := { s.env with statuses := ss } }) ∧
    (s.kReg.toNat = n.toNat → x ≠ 0x58 →
      exec (.readCount n) s = .next { s with sReg := x, err := s.err ||| errMask .drn, draws := s.draws + 1,
                                             mode := .execChecked .stop, trace := s.trace ++ [.status x],
                                             env := { s.env with statuses := ss } })

/-- A data token outside a read phase writes its low byte, waits, and the walk goes on; no status is read
(R152). -/
def Obligations.CheckedDataTokenWritesItsLowByte : Prop :=
  ∀ (s : State) (v : Word) (ws : List WaitAnswer),
    s.mode = .execChecked .token → decodeWord s.rp s.tReg = .dataWrite v → WalkGoesOn s →
    s.env.waits = .done :: ws →
    ∃ t1 t, exec (.dataWrite v) s = .next t1 ∧
      t1 = { s with trace := s.trace ++ [.write (v.setWidth 8)], mode := .execChecked .writeWait } ∧
      Reaches 1 t1 t ∧
      AtNextToken (.execChecked .token) (.execChecked .stop) s t ∧
      t = { s with iReg := t.iReg, tReg := t.tReg, mode := t.mode, draws := s.draws + 1,
                   env := { s.env with waits := ws },
                   trace := s.trace ++ [.write (v.setWidth 8), .wait .done] }

/-- An expired wait of a walk reads no status, resets the bus exactly once, flags BRO, and the walk ends with one
stop and one release; `LASTERR` takes the result and the next line starts (R153, R156, R157, R160; the line start is
the spec's decision D15, bus ownership log 15). -/
def Obligations.CheckedTimeoutResetsOnceAndEndsTheWalk : Prop :=
  ∀ (s : State) (p : CheckedAt) (ws rl : List WaitAnswer) (rs : List ResetAnswer),
    p ∈ ([.startWait, .addrWait, .readWait, .writeWait] : List CheckedAt) → s.mode = .execChecked p → p.inv s →
    s.env.waits = .timeout :: ws → s.env.resets = .ok :: rs → s.env.releases = .done :: rl →
    Reaches 4 s
      { s with err := s.err ||| errMask .bro, lasterr := s.lasterr ||| (s.err ||| errMask .bro),
               busHeld := false, acc := 0, admin := false, tb := writeSlot s.tb 0 1, mode := .lex .l1,
               draws := s.draws + 3, env := { s.env with waits := ws, resets := rs, releases := rl },
               trace := s.trace ++ [.wait .timeout, .reset .ok, .stop, .release .done] }

/-- The cleanup: one stop, one release wait, on its expiry one bus reset and BRO; then `LASTERR` takes the result
and the next line starts (R156, R160; the line start is R91 under the spec's decision D15, log 14; bus ownership
log 15). -/
def Obligations.CheckedCleanupStopsReleasesAndRecords : Prop :=
  ∀ (s : State) (rl : List WaitAnswer), s.mode = .execChecked .stop →
    (s.env.releases = .done :: rl →
      Reaches 2 s
        { s with lasterr := s.lasterr ||| s.err, busHeld := false, acc := 0, admin := false,
                 tb := writeSlot s.tb 0 1, mode := .lex .l1, draws := s.draws + 1,
                 env := { s.env with releases := rl }, trace := s.trace ++ [.stop, .release .done] }) ∧
    (∀ rs, s.env.releases = .timeout :: rl → s.env.resets = .ok :: rs →
      Reaches 3 s
        { s with err := s.err ||| errMask .bro, lasterr := s.lasterr ||| (s.err ||| errMask .bro),
                 busHeld := false, acc := 0, admin := false, tb := writeSlot s.tb 0 1, mode := .lex .l1,
                 draws := s.draws + 2, env := { s.env with releases := rl, resets := rs },
                 trace := s.trace ++ [.stop, .release .timeout, .reset .ok] })

/-! ### The Broadcast executor (43_exec_broadcast.md) -/

/-- A start token in broadcast mode: start, address, and one status read, which only sets the read phase; any status
goes on, to the next token or, where it is a read-count, to its first byte or past it (R172, R173, R174; bus
ownership: log 15). -/
def Obligations.BroadcastStartTokenChecksNothing : Prop :=
  ∀ (s : State) (i : Instr) (hi : Byte) (a : Address) (d : Bool) (y : Byte) (ws : List WaitAnswer)
    (ss : List Byte),
    i = (if d then .startR hi a else .startW hi a) → s.mode = .execBcast .token →
    decodeWord s.rp s.tReg = i → LineGoesOn s →
    s.env.waits = .done :: .done :: ws → s.env.statuses = y :: ss →
    ∃ t1 t, exec i s = .next t1 ∧
      t1 = { s with busHeld := true, trace := s.trace ++ [.start], mode := .execBcast .startWait } ∧
      Reaches 4 t1 t ∧
      BcastGoesOn
        { s with busHeld := true, abReg := addrByte a d, sReg := y, rp := decide (y = 0x40), draws := s.draws + 3,
                 env := { s.env with waits := ws, statuses := ss },
                 trace := s.trace ++ [.start, .wait .done, .write (addrByte a d), .wait .done, .status y] } t

/-- A read-count token in broadcast mode, from its first byte: it reports every byte received, reading no status, and
ends the line of output with LF. Its count test, done where the token is fetched, passes over a count of 0, which
reads nothing and flags nothing (R174). That test is asked for here at a token's beginning, where no run holds a
read-count (log 1, log 21; `kReg` is log 19). -/
def Obligations.BroadcastReadCountReportsEveryByte : Prop :=
  (∀ (s : State) (n : Word) (ds dd : List Byte) (ws : List WaitAnswer),
    s.mode = .execBcast .readCall → ReadInv s → s.tReg = n → s.kReg = 1 → WalkGoesOn s →
    ds.length = n.toNat → s.env.waits = List.replicate n.toNat .done ++ ws → s.env.datas = ds ++ dd →
    ∃ t1 t, exec (.readCount n) s = .next t1 ∧
      t1 = { s with trace := s.trace ++ [if n = 1 then .nack else .ack], mode := .execBcast .readWait } ∧
      Reaches (6 * n.toNat) t1 t ∧
      AtNextToken (.execBcast .token) (.execBcast .stop) s t ∧
      t.output = s.output ++ ds.flatMap hexReport ++ [0x0A] ∧
      (∃ es, t.trace = s.trace ++ es ∧ es.map Event.plain = readEvents false ds) ∧
      t = { s with kReg := n, dbReg := t.dbReg, rp := false, iReg := t.iReg, tReg := t.tReg, mode := t.mode,
                   draws := t.draws, env := t.env, trace := t.trace }) ∧
  ∀ (s : State) (n : Word), s.mode = .execBcast .token →
    (n ≠ 0 → exec (.readCount n) s = .next { s with nReg := n, kReg := 1, mode := .execBcast .readCall }) ∧
    (n = 0 → WalkGoesOn s →
      ∃ t, exec (.readCount n) s = .next t ∧ AtNextToken (.execBcast .token) (.execBcast .stop) s t ∧
        t = { s with nReg := 0, rp := false, iReg := t.iReg, tReg := t.tReg, mode := t.mode })

/-- A data token in broadcast mode writes its low byte and waits (R175). -/
def Obligations.BroadcastDataTokenWritesItsLowByte : Prop :=
  ∀ (s : State) (v : Word) (ws : List WaitAnswer),
    s.mode = .execBcast .token → decodeWord s.rp s.tReg = .dataWrite v → WalkGoesOn s →
    s.env.waits = .done :: ws →
    ∃ t1 t, exec (.dataWrite v) s = .next t1 ∧
      t1 = { s with trace := s.trace ++ [.write (v.setWidth 8)], mode := .execBcast .writeWait } ∧
      Reaches 1 t1 t ∧
      AtNextToken (.execBcast .token) (.execBcast .stop) s t ∧
      t = { s with iReg := t.iReg, tReg := t.tReg, mode := t.mode, draws := s.draws + 1,
                   env := { s.env with waits := ws },
                   trace := s.trace ++ [.write (v.setWidth 8), .wait .done] }

/-- The broadcast cleanup issues one stop and one release wait, leaves `LASTERR` and `ERR` as they are and starts the
next line; an expired wait resets the bus once, flags nothing and goes there; an expired release resets the bus
(R176, R177; the line start is the spec's decision D15, bus ownership log 15). -/
def Obligations.BroadcastTimeoutResetsAndEndsTheWalk : Prop :=
  (∀ (s : State) (rl : List WaitAnswer), s.mode = .execBcast .stop → s.env.releases = .done :: rl →
    Reaches 2 s
      { s with busHeld := false, acc := 0, admin := false, tb := writeSlot s.tb 0 1, mode := .lex .l1,
               draws := s.draws + 1, env := { s.env with releases := rl },
               trace := s.trace ++ [.stop, .release .done] }) ∧
  (∀ (s : State) (p : BcastAt) (ws rl : List WaitAnswer) (rs : List ResetAnswer),
    p ∈ ([.startWait, .addrWait, .readWait, .writeWait] : List BcastAt) → s.mode = .execBcast p → p.inv s →
    s.env.waits = .timeout :: ws → s.env.resets = .ok :: rs → s.env.releases = .done :: rl →
    Reaches 4 s
      { s with busHeld := false, acc := 0, admin := false, tb := writeSlot s.tb 0 1, mode := .lex .l1,
               draws := s.draws + 3, env := { s.env with waits := ws, resets := rs, releases := rl },
               trace := s.trace ++ [.wait .timeout, .reset .ok, .stop, .release .done] }) ∧
  (∀ (s : State) (rl : List WaitAnswer) (rs : List ResetAnswer),
    s.mode = .execBcast .stop → s.env.releases = .timeout :: rl → s.env.resets = .ok :: rs →
    Reaches 3 s
      { s with busHeld := false, acc := 0, admin := false, tb := writeSlot s.tb 0 1, mode := .lex .l1,
               draws := s.draws + 2, env := { s.env with resets := rs, releases := rl },
               trace := s.trace ++ [.stop, .release .timeout, .reset .ok] })

/-- No step of the Broadcast executor changes `LASTERR` or sets an error bit (R178). -/
def Obligations.BroadcastNeverTouchesTheLastError : Prop :=
  ∀ (s t : State) (p : BcastAt), s.mode = .execBcast p → step s = .next t →
    t.lasterr = s.lasterr ∧ t.err = s.err

/-- A checked walk in which no wait expires and no check fails, so that at most an expired release is flagged, is
repeated by the Broadcast executor: where the environment gives the same waits, releases, data bytes and resets, and
to its status reads the ones the checked walk read after an address, the two issue the same events but for the
status reads and what the sends report (R179). Input may be waiting; neither walk takes it. -/
def Obligations.BroadcastRepeatsAnErrorFreeCheckedWalk : Prop :=
  ∀ (s tc : State) (n : Nat) (es : List Event) (e : Env),
    s.mode = .lex .ld → s.admin = false → Reaches n { s with bcast := false } tc → tc.mode = .lex .l1 →
    tc.trace = s.trace ++ es → (∀ b, Event.rx b ∉ es) → Event.wait .timeout ∉ es →
    (tc.err = 0 ∨ tc.err = errMask .bro) →
    es.filterMap Event.waited <+: e.waits → es.filterMap Event.released <+: e.releases →
    es.filterMap Event.received <+: e.datas → es.filterMap Event.wasReset <+: e.resets →
    addressStatuses es <+: e.statuses →
    ∃ (m : Nat) (u : State),
      Reaches m { s with bcast := true, env := e } u ∧ u.mode = .lex .l1 ∧ u.input = s.input ∧
        ∃ fs, u.trace = s.trace ++ fs ∧ besideStatus fs = besideStatus es ∧
          fs.filterMap Event.statusRead = addressStatuses es

/-! ### Fatal causes (60_exceptions.md) -/

/-- A failed bus reset halts with `FATAL_PERIPH`, wherever it was asked for: the fatal entry is the next call, no
stop comes between and nothing else changes (R227, R229). -/
def Obligations.FailedBusResetHaltsAtOnce : Prop :=
  ∀ (s : State) (p : Mode × Mode) (rs : List ResetAnswer),
    p ∈ ([(.execChecked .timeout, .execChecked .fatal), (.execChecked .releaseReset, .execChecked .fatal),
        (.execBcast .timeout, .execBcast .fatal), (.execBcast .releaseReset, .execBcast .fatal),
        (.adminop (.scan .timeout), .adminop (.scan .fatal)),
        (.adminop (.scan .releaseReset), .adminop (.scan .fatal)),
        (.adminop .errReset, .adminop .errFatal)] : List (Mode × Mode)) →
    s.mode = p.1 → s.env.resets = .fail :: rs →
    ∃ u, u = { s with mode := p.2, draws := s.draws + 1, env := { s.env with resets := rs },
                      trace := s.trace ++ [.reset .fail] } ∧
      step s = .next u ∧
      step u = .next { u with mode := .halted Config.fatalPeriph, trace := u.trace ++ [.fatal Config.fatalPeriph] }

/-- The block halts in exactly two ways: at a full buffer, or right after a failed bus reset (R223; the fatal entry as
a step of its own: log 5). `OrderInv`, which
every step keeps, rules out states no run reaches, in which the last call was another. -/
def Obligations.OnlyTwoCausesHalt : Prop :=
  ∀ (s t : State) (c : Nat), OrderInv s → step s = .next t → t.mode = .halted c →
    t.trace = s.trace ++ [.fatal c] ∧
      ((c = Config.fatalOverflow ∧ s.tbLen = 260 ∧ s.mode = .lex .l1) ∨
        (c = Config.fatalPeriph ∧ s.trace.getLast? = some (.reset .fail)))

/-! ### Who writes what (10_state.md, 20_memory.md) -/

/-- `SPEED` and `BCAST` change only through administrative commands: `SPEED` by `S`, `T` or `V`, to their tier, and
`BCAST` by a received `*` (R21, R22, R24; in the steps of those calls: log 20). -/
def Obligations.OnlyCommandsChangeSpeedAndBroadcast : Prop :=
  ∀ s t : State, step s = .next t →
    (t.speed ≠ s.speed → s.mode = .adminop (.setSpeed t.speed)) ∧
    (t.bcast ≠ s.bcast → (s.mode = .lex .l0 ∨ s.mode = .lex .l1) ∧ ∃ rest, s.input = 0x2A :: rest)

/-- `LASTERR` changes only by taking the result of a checked walk or of a scan at its return, or by `^` clearing it
(R23), in the step of its report's last byte (log 20). -/
def Obligations.LastErrorHasThreeWriters : Prop :=
  ∀ s t : State, step s = .next t → t.lasterr ≠ s.lasterr →
    (s.mode ∈ ([.execChecked .release, .execChecked .releaseReset, .adminop (.scan .release),
        .adminop (.scan .releaseReset)] : List Mode) ∧ t.lasterr = s.lasterr ||| t.err) ∨
      ((∃ r, s.mode = .adminop (.err r)) ∧ t.lasterr = 0)

/-- Only the lexer writes tokens: outside `L0` and `L1` no step changes a slot above slot 0, at `L1` a step changes at
most the slot at `TB[0]`, and at `L0`, where the line starts at `TB[0] = 1`, at most slot 1 (R27, R56, R102). -/
def Obligations.OnlyTheLexerWritesTokens : Prop :=
  ∀ s t : State, step s = .next t → ∀ a, a ≠ 0 →
    (s.mode ≠ .lex .l1 → s.mode ≠ .lex .l0 → readSlot t.tb a = readSlot s.tb a) ∧
    (s.mode = .lex .l1 → 1 ≤ s.tbLen → a ≠ s.tbLen → readSlot t.tb a = readSlot s.tb a) ∧
    (s.mode = .lex .l0 → a ≠ 1 → readSlot t.tb a = readSlot s.tb a)

/-- The input is taken byte by byte, in order, and the position counts the bytes; a step takes at most one (R32,
R57). -/
def Obligations.InputIsTakenInOrder : Prop :=
  ∀ s t : State, step s = .next t →
    (t.input = s.input ∧ t.inPos = s.inPos) ∨
      ∃ b, s.input = b :: t.input ∧ t.inPos = s.inPos + 1 ∧ t.trace = s.trace ++ [.rx b]

/-- A step adds at most one call to the trace and rewrites nothing; it adds exactly one but in the dispatch and while
the block waits in `Rx()` (R12, R52; log 1, log 3). `WalkInv` and `SendInv`, both kept by every step, rule out states
no run reaches: a sub-state that disagrees with its token, and a text with no byte left. -/
def Obligations.StepAddsAtMostOneCall : Prop :=
  ∀ s t : State, step s = .next t →
    (t.trace = s.trace ∨ ∃ e, t.trace = s.trace ++ [e]) ∧
    (WalkInv s → SendInv s → t.trace = s.trace →
      s.mode = .lex .ld ∨ ((s.mode = .lex .l0 ∨ s.mode = .lex .l1) ∧ s.input = [])) ∧
    (SendInv s → SendInv t)

/-! ### Invariants -/

/-- The buffer stays canonical and holds lexer words below its counter, and a walk's registers agree with the token
it is at: kept by every step (R27, R55, R74, R141). -/
def Obligations.StepKeepsTheBufferAndTheWalk : Prop :=
  ∀ s t : State, BufferInv s → WalkInv s → step s = .next t → BufferInv t ∧ WalkInv t

/-- From such a state a step stops only in `HALTED`: no dead slot is read and no append leaves the buffer, and
nothing is refused (R54, R55). -/
def Obligations.OnlyTheHaltStopsAStep : Prop :=
  ∀ s : State, BufferInv s → WalkInv s →
    (∃ t, step s = .next t) ∨ ∃ c, s.mode = .halted c ∧ step s = .fault (.halted c)

/-- Every step keeps the trace in the order of R53: a wait after each bus operation, a release wait after each
stop, a reset after each expiry, no status or byte before its wait. `WalkInv` rules out states no run reaches, in
which a sub-state and the token disagree. -/
def Obligations.StepKeepsTheEventOrder : Prop :=
  ∀ s t : State, WalkInv s → OrderInv s → step s = .next t → OrderInv t

/-- The arbitration-lost and reserved bits stay 0 (R81). -/
def Obligations.StepKeepsTheReservedBitsZero : Prop :=
  ∀ s t : State, ReservedBitsInv s → step s = .next t → ReservedBitsInv t

/-- `ERR` stays 0 while a walk or sweep goes on, holds one kind after an abort, and that kind and at most BRO after
the return (R155; for the sweep R187, R191 and R192 under the spec's decision D11; `ERR` of a broadcast walk is
log 9). -/
def Obligations.StepKeepsOneFailureAWalk : Prop :=
  ∀ s t : State, ErrInv s → step s = .next t → ErrInv t

/-- The bus is held only within a walk or sweep before its stop, or after a fatal halt: every step keeps it so
(R254; bus ownership as log 15 models R34). -/
def Obligations.StepKeepsTheBusReleasedBetweenWalks : Prop :=
  ∀ s t : State, BusInv s → step s = .next t → BusInv t

/-- `SPEED` and the PAL's speed stay equal, the halt code stays one of the two, the scan counter stays in range,
and the input position stays the number of bytes received (R32, R190, R223, R252). -/
def Obligations.StepKeepsSpeedHaltScanAndPosition : Prop :=
  ∀ s t : State, SpeedInv s → HaltInv s → ScanInv s → PositionInv s → step s = .next t →
    SpeedInv t ∧ HaltInv t ∧ ScanInv t ∧ PositionInv t

/-- All the invariants hold at power-on. The walk's registers, which the model sets to 0 (log 7), play no part but
in `ReservedBitsInv` and `ErrInv`, where `ERR` is 0 by that choice. -/
def Obligations.ResetMeetsTheInvariants : Prop :=
  BufferInv State.reset ∧ WalkInv State.reset ∧ OrderInv State.reset ∧ ReservedBitsInv State.reset ∧
    ErrInv State.reset ∧ BusInv State.reset ∧ SpeedInv State.reset ∧ HaltInv State.reset ∧ ScanInv State.reset ∧
    PositionInv State.reset ∧ SendInv State.reset

/-! ### Every walk, sweep and command ends -/

/-- From every state of the invariants, whatever the environment answers, some number of steps leads to `L1` or to
the fatal halt: no walk, sweep or command runs on for ever (R228, R254). -/
def Obligations.EveryCommandReturnsOrHalts : Prop :=
  ∀ s : State, BufferInv s → WalkInv s → ScanInv s → ∃ k t, Reaches k s t ∧ Settled t
end

