-- ==== Sys2Proof/Laws/State.lean ====
section
/-!
SUPPORT. For each update of the state, each field after it: one lemma a field, true by unfolding, so that no proof
unfolds a record update. An operation that leaves `tb` alone leaves `tbLen` and the tokens alone too.
-/

namespace Sys2Proof.Machine

variable (s : State)

/-! ### goto -/

@[simp] theorem State.goto_speed (m : Mode) : (s.goto m).speed = s.speed := rfl
@[simp] theorem State.goto_bcast (m : Mode) : (s.goto m).bcast = s.bcast := rfl
@[simp] theorem State.goto_lasterr (m : Mode) : (s.goto m).lasterr = s.lasterr := rfl
@[simp] theorem State.goto_acc (m : Mode) : (s.goto m).acc = s.acc := rfl
@[simp] theorem State.goto_admin (m : Mode) : (s.goto m).admin = s.admin := rfl
@[simp] theorem State.goto_tb (m : Mode) : (s.goto m).tb = s.tb := rfl
@[simp] theorem State.goto_mode (m : Mode) : (s.goto m).mode = m := rfl
@[simp] theorem State.goto_iReg (m : Mode) : (s.goto m).iReg = s.iReg := rfl
@[simp] theorem State.goto_tReg (m : Mode) : (s.goto m).tReg = s.tReg := rfl
@[simp] theorem State.goto_rp (m : Mode) : (s.goto m).rp = s.rp := rfl
@[simp] theorem State.goto_nReg (m : Mode) : (s.goto m).nReg = s.nReg := rfl
@[simp] theorem State.goto_sReg (m : Mode) : (s.goto m).sReg = s.sReg := rfl
@[simp] theorem State.goto_dbReg (m : Mode) : (s.goto m).dbReg = s.dbReg := rfl
@[simp] theorem State.goto_err (m : Mode) : (s.goto m).err = s.err := rfl
@[simp] theorem State.goto_aReg (m : Mode) : (s.goto m).aReg = s.aReg := rfl
@[simp] theorem State.goto_abReg (m : Mode) : (s.goto m).abReg = s.abReg := rfl
@[simp] theorem State.goto_kReg (m : Mode) : (s.goto m).kReg = s.kReg := rfl
@[simp] theorem State.goto_palSpeed (m : Mode) : (s.goto m).palSpeed = s.palSpeed := rfl
@[simp] theorem State.goto_busHeld (m : Mode) : (s.goto m).busHeld = s.busHeld := rfl
@[simp] theorem State.goto_inPos (m : Mode) : (s.goto m).inPos = s.inPos := rfl
@[simp] theorem State.goto_input (m : Mode) : (s.goto m).input = s.input := rfl
@[simp] theorem State.goto_env (m : Mode) : (s.goto m).env = s.env := rfl
@[simp] theorem State.goto_draws (m : Mode) : (s.goto m).draws = s.draws := rfl
@[simp] theorem State.goto_trace (m : Mode) : (s.goto m).trace = s.trace := rfl
@[simp] theorem State.goto_tbLen (m : Mode) : (s.goto m).tbLen = s.tbLen := rfl
@[simp] theorem State.goto_token (m : Mode) (n : Nat) : (s.goto m).token n = s.token n := rfl

/-! ### flag -/

@[simp] theorem State.flag_speed (k : ErrKind) : (s.flag k).speed = s.speed := rfl
@[simp] theorem State.flag_bcast (k : ErrKind) : (s.flag k).bcast = s.bcast := rfl
@[simp] theorem State.flag_lasterr (k : ErrKind) : (s.flag k).lasterr = s.lasterr := rfl
@[simp] theorem State.flag_acc (k : ErrKind) : (s.flag k).acc = s.acc := rfl
@[simp] theorem State.flag_admin (k : ErrKind) : (s.flag k).admin = s.admin := rfl
@[simp] theorem State.flag_tb (k : ErrKind) : (s.flag k).tb = s.tb := rfl
@[simp] theorem State.flag_mode (k : ErrKind) : (s.flag k).mode = s.mode := rfl
@[simp] theorem State.flag_iReg (k : ErrKind) : (s.flag k).iReg = s.iReg := rfl
@[simp] theorem State.flag_tReg (k : ErrKind) : (s.flag k).tReg = s.tReg := rfl
@[simp] theorem State.flag_rp (k : ErrKind) : (s.flag k).rp = s.rp := rfl
@[simp] theorem State.flag_nReg (k : ErrKind) : (s.flag k).nReg = s.nReg := rfl
@[simp] theorem State.flag_sReg (k : ErrKind) : (s.flag k).sReg = s.sReg := rfl
@[simp] theorem State.flag_dbReg (k : ErrKind) : (s.flag k).dbReg = s.dbReg := rfl
@[simp] theorem State.flag_err (k : ErrKind) : (s.flag k).err = s.err ||| errMask k := rfl
@[simp] theorem State.flag_aReg (k : ErrKind) : (s.flag k).aReg = s.aReg := rfl
@[simp] theorem State.flag_abReg (k : ErrKind) : (s.flag k).abReg = s.abReg := rfl
@[simp] theorem State.flag_kReg (k : ErrKind) : (s.flag k).kReg = s.kReg := rfl
@[simp] theorem State.flag_palSpeed (k : ErrKind) : (s.flag k).palSpeed = s.palSpeed := rfl
@[simp] theorem State.flag_busHeld (k : ErrKind) : (s.flag k).busHeld = s.busHeld := rfl
@[simp] theorem State.flag_inPos (k : ErrKind) : (s.flag k).inPos = s.inPos := rfl
@[simp] theorem State.flag_input (k : ErrKind) : (s.flag k).input = s.input := rfl
@[simp] theorem State.flag_env (k : ErrKind) : (s.flag k).env = s.env := rfl
@[simp] theorem State.flag_draws (k : ErrKind) : (s.flag k).draws = s.draws := rfl
@[simp] theorem State.flag_trace (k : ErrKind) : (s.flag k).trace = s.trace := rfl
@[simp] theorem State.flag_tbLen (k : ErrKind) : (s.flag k).tbLen = s.tbLen := rfl
@[simp] theorem State.flag_token (k : ErrKind) (n : Nat) : (s.flag k).token n = s.token n := rfl

/-! ### foldErr -/

@[simp] theorem State.foldErr_speed : s.foldErr.speed = s.speed := rfl
@[simp] theorem State.foldErr_bcast : s.foldErr.bcast = s.bcast := rfl
@[simp] theorem State.foldErr_lasterr : s.foldErr.lasterr = s.lasterr ||| s.err := rfl
@[simp] theorem State.foldErr_acc : s.foldErr.acc = s.acc := rfl
@[simp] theorem State.foldErr_admin : s.foldErr.admin = s.admin := rfl
@[simp] theorem State.foldErr_tb : s.foldErr.tb = s.tb := rfl
@[simp] theorem State.foldErr_mode : s.foldErr.mode = s.mode := rfl
@[simp] theorem State.foldErr_iReg : s.foldErr.iReg = s.iReg := rfl
@[simp] theorem State.foldErr_tReg : s.foldErr.tReg = s.tReg := rfl
@[simp] theorem State.foldErr_rp : s.foldErr.rp = s.rp := rfl
@[simp] theorem State.foldErr_nReg : s.foldErr.nReg = s.nReg := rfl
@[simp] theorem State.foldErr_sReg : s.foldErr.sReg = s.sReg := rfl
@[simp] theorem State.foldErr_dbReg : s.foldErr.dbReg = s.dbReg := rfl
@[simp] theorem State.foldErr_err : s.foldErr.err = s.err := rfl
@[simp] theorem State.foldErr_aReg : s.foldErr.aReg = s.aReg := rfl
@[simp] theorem State.foldErr_abReg : s.foldErr.abReg = s.abReg := rfl
@[simp] theorem State.foldErr_kReg : s.foldErr.kReg = s.kReg := rfl
@[simp] theorem State.foldErr_palSpeed : s.foldErr.palSpeed = s.palSpeed := rfl
@[simp] theorem State.foldErr_busHeld : s.foldErr.busHeld = s.busHeld := rfl
@[simp] theorem State.foldErr_inPos : s.foldErr.inPos = s.inPos := rfl
@[simp] theorem State.foldErr_input : s.foldErr.input = s.input := rfl
@[simp] theorem State.foldErr_env : s.foldErr.env = s.env := rfl
@[simp] theorem State.foldErr_draws : s.foldErr.draws = s.draws := rfl
@[simp] theorem State.foldErr_trace : s.foldErr.trace = s.trace := rfl
@[simp] theorem State.foldErr_tbLen : s.foldErr.tbLen = s.tbLen := rfl
@[simp] theorem State.foldErr_token (n : Nat) : s.foldErr.token n = s.token n := rfl

/-! ### startLine -/

@[simp] theorem State.startLine_speed : s.startLine.speed = s.speed := rfl
@[simp] theorem State.startLine_bcast : s.startLine.bcast = s.bcast := rfl
@[simp] theorem State.startLine_lasterr : s.startLine.lasterr = s.lasterr := rfl
@[simp] theorem State.startLine_acc : s.startLine.acc = 0 := rfl
@[simp] theorem State.startLine_admin : s.startLine.admin = false := rfl
@[simp] theorem State.startLine_tb : s.startLine.tb = writeSlot s.tb 0 1 := rfl
@[simp] theorem State.startLine_mode : s.startLine.mode = .lex .l1 := rfl
@[simp] theorem State.startLine_iReg : s.startLine.iReg = s.iReg := rfl
@[simp] theorem State.startLine_tReg : s.startLine.tReg = s.tReg := rfl
@[simp] theorem State.startLine_rp : s.startLine.rp = s.rp := rfl
@[simp] theorem State.startLine_nReg : s.startLine.nReg = s.nReg := rfl
@[simp] theorem State.startLine_sReg : s.startLine.sReg = s.sReg := rfl
@[simp] theorem State.startLine_dbReg : s.startLine.dbReg = s.dbReg := rfl
@[simp] theorem State.startLine_err : s.startLine.err = s.err := rfl
@[simp] theorem State.startLine_aReg : s.startLine.aReg = s.aReg := rfl
@[simp] theorem State.startLine_abReg : s.startLine.abReg = s.abReg := rfl
@[simp] theorem State.startLine_kReg : s.startLine.kReg = s.kReg := rfl
@[simp] theorem State.startLine_palSpeed : s.startLine.palSpeed = s.palSpeed := rfl
@[simp] theorem State.startLine_busHeld : s.startLine.busHeld = s.busHeld := rfl
@[simp] theorem State.startLine_inPos : s.startLine.inPos = s.inPos := rfl
@[simp] theorem State.startLine_input : s.startLine.input = s.input := rfl
@[simp] theorem State.startLine_env : s.startLine.env = s.env := rfl
@[simp] theorem State.startLine_draws : s.startLine.draws = s.draws := rfl
@[simp] theorem State.startLine_trace : s.startLine.trace = s.trace := rfl

/-! ### backToLine -/

@[simp] theorem State.backToLine_speed : s.backToLine.speed = s.speed := rfl
@[simp] theorem State.backToLine_bcast : s.backToLine.bcast = s.bcast := rfl
@[simp] theorem State.backToLine_lasterr : s.backToLine.lasterr = s.lasterr := rfl
@[simp] theorem State.backToLine_acc : s.backToLine.acc = s.acc := rfl
@[simp] theorem State.backToLine_admin : s.backToLine.admin = s.admin := rfl
@[simp] theorem State.backToLine_tb : s.backToLine.tb = s.tb := rfl
@[simp] theorem State.backToLine_mode : s.backToLine.mode = .lex .l1 := rfl
@[simp] theorem State.backToLine_iReg : s.backToLine.iReg = s.iReg := rfl
@[simp] theorem State.backToLine_tReg : s.backToLine.tReg = s.tReg := rfl
@[simp] theorem State.backToLine_rp : s.backToLine.rp = s.rp := rfl
@[simp] theorem State.backToLine_nReg : s.backToLine.nReg = s.nReg := rfl
@[simp] theorem State.backToLine_sReg : s.backToLine.sReg = s.sReg := rfl
@[simp] theorem State.backToLine_dbReg : s.backToLine.dbReg = s.dbReg := rfl
@[simp] theorem State.backToLine_err : s.backToLine.err = s.err := rfl
@[simp] theorem State.backToLine_aReg : s.backToLine.aReg = s.aReg := rfl
@[simp] theorem State.backToLine_abReg : s.backToLine.abReg = s.abReg := rfl
@[simp] theorem State.backToLine_kReg : s.backToLine.kReg = s.kReg := rfl
@[simp] theorem State.backToLine_palSpeed : s.backToLine.palSpeed = s.palSpeed := rfl
@[simp] theorem State.backToLine_busHeld : s.backToLine.busHeld = s.busHeld := rfl
@[simp] theorem State.backToLine_inPos : s.backToLine.inPos = s.inPos := rfl
@[simp] theorem State.backToLine_input : s.backToLine.input = s.input := rfl
@[simp] theorem State.backToLine_env : s.backToLine.env = s.env := rfl
@[simp] theorem State.backToLine_draws : s.backToLine.draws = s.draws := rfl
@[simp] theorem State.backToLine_trace : s.backToLine.trace = s.trace := rfl
@[simp] theorem State.backToLine_tbLen : s.backToLine.tbLen = s.tbLen := rfl
@[simp] theorem State.backToLine_token (n : Nat) : s.backToLine.token n = s.token n := rfl

/-! ### emit -/

@[simp] theorem State.emit_speed (e : Event) : (s.emit e).speed = s.speed := rfl
@[simp] theorem State.emit_bcast (e : Event) : (s.emit e).bcast = s.bcast := rfl
@[simp] theorem State.emit_lasterr (e : Event) : (s.emit e).lasterr = s.lasterr := rfl
@[simp] theorem State.emit_acc (e : Event) : (s.emit e).acc = s.acc := rfl
@[simp] theorem State.emit_admin (e : Event) : (s.emit e).admin = s.admin := rfl
@[simp] theorem State.emit_tb (e : Event) : (s.emit e).tb = s.tb := rfl
@[simp] theorem State.emit_mode (e : Event) : (s.emit e).mode = s.mode := rfl
@[simp] theorem State.emit_iReg (e : Event) : (s.emit e).iReg = s.iReg := rfl
@[simp] theorem State.emit_tReg (e : Event) : (s.emit e).tReg = s.tReg := rfl
@[simp] theorem State.emit_rp (e : Event) : (s.emit e).rp = s.rp := rfl
@[simp] theorem State.emit_nReg (e : Event) : (s.emit e).nReg = s.nReg := rfl
@[simp] theorem State.emit_sReg (e : Event) : (s.emit e).sReg = s.sReg := rfl
@[simp] theorem State.emit_dbReg (e : Event) : (s.emit e).dbReg = s.dbReg := rfl
@[simp] theorem State.emit_err (e : Event) : (s.emit e).err = s.err := rfl
@[simp] theorem State.emit_aReg (e : Event) : (s.emit e).aReg = s.aReg := rfl
@[simp] theorem State.emit_abReg (e : Event) : (s.emit e).abReg = s.abReg := rfl
@[simp] theorem State.emit_kReg (e : Event) : (s.emit e).kReg = s.kReg := rfl
@[simp] theorem State.emit_palSpeed (e : Event) : (s.emit e).palSpeed = s.palSpeed := rfl
@[simp] theorem State.emit_busHeld (e : Event) : (s.emit e).busHeld = s.busHeld := rfl
@[simp] theorem State.emit_inPos (e : Event) : (s.emit e).inPos = s.inPos := rfl
@[simp] theorem State.emit_input (e : Event) : (s.emit e).input = s.input := rfl
@[simp] theorem State.emit_env (e : Event) : (s.emit e).env = s.env := rfl
@[simp] theorem State.emit_draws (e : Event) : (s.emit e).draws = s.draws := rfl
@[simp] theorem State.emit_trace (e : Event) : (s.emit e).trace = s.trace ++ [e] := rfl
@[simp] theorem State.emit_tbLen (e : Event) : (s.emit e).tbLen = s.tbLen := rfl
@[simp] theorem State.emit_token (e : Event) (n : Nat) : (s.emit e).token n = s.token n := rfl

/-! ### rx -/

@[simp] theorem State.rx_speed (b : Byte) (rest : List Byte) : (s.rx b rest).speed = s.speed := rfl
@[simp] theorem State.rx_bcast (b : Byte) (rest : List Byte) : (s.rx b rest).bcast = s.bcast := rfl
@[simp] theorem State.rx_lasterr (b : Byte) (rest : List Byte) : (s.rx b rest).lasterr = s.lasterr := rfl
@[simp] theorem State.rx_acc (b : Byte) (rest : List Byte) : (s.rx b rest).acc = s.acc := rfl
@[simp] theorem State.rx_admin (b : Byte) (rest : List Byte) : (s.rx b rest).admin = s.admin := rfl
@[simp] theorem State.rx_tb (b : Byte) (rest : List Byte) : (s.rx b rest).tb = s.tb := rfl
@[simp] theorem State.rx_mode (b : Byte) (rest : List Byte) : (s.rx b rest).mode = s.mode := rfl
@[simp] theorem State.rx_iReg (b : Byte) (rest : List Byte) : (s.rx b rest).iReg = s.iReg := rfl
@[simp] theorem State.rx_tReg (b : Byte) (rest : List Byte) : (s.rx b rest).tReg = s.tReg := rfl
@[simp] theorem State.rx_rp (b : Byte) (rest : List Byte) : (s.rx b rest).rp = s.rp := rfl
@[simp] theorem State.rx_nReg (b : Byte) (rest : List Byte) : (s.rx b rest).nReg = s.nReg := rfl
@[simp] theorem State.rx_sReg (b : Byte) (rest : List Byte) : (s.rx b rest).sReg = s.sReg := rfl
@[simp] theorem State.rx_dbReg (b : Byte) (rest : List Byte) : (s.rx b rest).dbReg = s.dbReg := rfl
@[simp] theorem State.rx_err (b : Byte) (rest : List Byte) : (s.rx b rest).err = s.err := rfl
@[simp] theorem State.rx_aReg (b : Byte) (rest : List Byte) : (s.rx b rest).aReg = s.aReg := rfl
@[simp] theorem State.rx_abReg (b : Byte) (rest : List Byte) : (s.rx b rest).abReg = s.abReg := rfl
@[simp] theorem State.rx_kReg (b : Byte) (rest : List Byte) : (s.rx b rest).kReg = s.kReg := rfl
@[simp] theorem State.rx_palSpeed (b : Byte) (rest : List Byte) : (s.rx b rest).palSpeed = s.palSpeed := rfl
@[simp] theorem State.rx_busHeld (b : Byte) (rest : List Byte) : (s.rx b rest).busHeld = s.busHeld := rfl
@[simp] theorem State.rx_inPos (b : Byte) (rest : List Byte) : (s.rx b rest).inPos = s.inPos + 1 := rfl
@[simp] theorem State.rx_input (b : Byte) (rest : List Byte) : (s.rx b rest).input = rest := rfl
@[simp] theorem State.rx_env (b : Byte) (rest : List Byte) : (s.rx b rest).env = s.env := rfl
@[simp] theorem State.rx_draws (b : Byte) (rest : List Byte) : (s.rx b rest).draws = s.draws := rfl
@[simp] theorem State.rx_trace (b : Byte) (rest : List Byte) : (s.rx b rest).trace = s.trace ++ [.rx b] := rfl
@[simp] theorem State.rx_tbLen (b : Byte) (rest : List Byte) : (s.rx b rest).tbLen = s.tbLen := rfl
@[simp] theorem State.rx_token (b : Byte) (rest : List Byte) (n : Nat) : (s.rx b rest).token n = s.token n := rfl

/-! ### busStart -/

@[simp] theorem State.busStart_speed : s.busStart.speed = s.speed := rfl
@[simp] theorem State.busStart_bcast : s.busStart.bcast = s.bcast := rfl
@[simp] theorem State.busStart_lasterr : s.busStart.lasterr = s.lasterr := rfl
@[simp] theorem State.busStart_acc : s.busStart.acc = s.acc := rfl
@[simp] theorem State.busStart_admin : s.busStart.admin = s.admin := rfl
@[simp] theorem State.busStart_tb : s.busStart.tb = s.tb := rfl
@[simp] theorem State.busStart_mode : s.busStart.mode = s.mode := rfl
@[simp] theorem State.busStart_iReg : s.busStart.iReg = s.iReg := rfl
@[simp] theorem State.busStart_tReg : s.busStart.tReg = s.tReg := rfl
@[simp] theorem State.busStart_rp : s.busStart.rp = s.rp := rfl
@[simp] theorem State.busStart_nReg : s.busStart.nReg = s.nReg := rfl
@[simp] theorem State.busStart_sReg : s.busStart.sReg = s.sReg := rfl
@[simp] theorem State.busStart_dbReg : s.busStart.dbReg = s.dbReg := rfl
@[simp] theorem State.busStart_err : s.busStart.err = s.err := rfl
@[simp] theorem State.busStart_aReg : s.busStart.aReg = s.aReg := rfl
@[simp] theorem State.busStart_abReg : s.busStart.abReg = s.abReg := rfl
@[simp] theorem State.busStart_kReg : s.busStart.kReg = s.kReg := rfl
@[simp] theorem State.busStart_palSpeed : s.busStart.palSpeed = s.palSpeed := rfl
@[simp] theorem State.busStart_busHeld : s.busStart.busHeld = true := rfl
@[simp] theorem State.busStart_inPos : s.busStart.inPos = s.inPos := rfl
@[simp] theorem State.busStart_input : s.busStart.input = s.input := rfl
@[simp] theorem State.busStart_env : s.busStart.env = s.env := rfl
@[simp] theorem State.busStart_draws : s.busStart.draws = s.draws := rfl
@[simp] theorem State.busStart_trace : s.busStart.trace = s.trace ++ [.start] := rfl
@[simp] theorem State.busStart_tbLen : s.busStart.tbLen = s.tbLen := rfl
@[simp] theorem State.busStart_token (n : Nat) : s.busStart.token n = s.token n := rfl

/-! ### busWrite -/

@[simp] theorem State.busWrite_speed (b : Byte) : (s.busWrite b).speed = s.speed := rfl
@[simp] theorem State.busWrite_bcast (b : Byte) : (s.busWrite b).bcast = s.bcast := rfl
@[simp] theorem State.busWrite_lasterr (b : Byte) : (s.busWrite b).lasterr = s.lasterr := rfl
@[simp] theorem State.busWrite_acc (b : Byte) : (s.busWrite b).acc = s.acc := rfl
@[simp] theorem State.busWrite_admin (b : Byte) : (s.busWrite b).admin = s.admin := rfl
@[simp] theorem State.busWrite_tb (b : Byte) : (s.busWrite b).tb = s.tb := rfl
@[simp] theorem State.busWrite_mode (b : Byte) : (s.busWrite b).mode = s.mode := rfl
@[simp] theorem State.busWrite_iReg (b : Byte) : (s.busWrite b).iReg = s.iReg := rfl
@[simp] theorem State.busWrite_tReg (b : Byte) : (s.busWrite b).tReg = s.tReg := rfl
@[simp] theorem State.busWrite_rp (b : Byte) : (s.busWrite b).rp = s.rp := rfl
@[simp] theorem State.busWrite_nReg (b : Byte) : (s.busWrite b).nReg = s.nReg := rfl
@[simp] theorem State.busWrite_sReg (b : Byte) : (s.busWrite b).sReg = s.sReg := rfl
@[simp] theorem State.busWrite_dbReg (b : Byte) : (s.busWrite b).dbReg = s.dbReg := rfl
@[simp] theorem State.busWrite_err (b : Byte) : (s.busWrite b).err = s.err := rfl
@[simp] theorem State.busWrite_aReg (b : Byte) : (s.busWrite b).aReg = s.aReg := rfl
@[simp] theorem State.busWrite_abReg (b : Byte) : (s.busWrite b).abReg = s.abReg := rfl
@[simp] theorem State.busWrite_kReg (b : Byte) : (s.busWrite b).kReg = s.kReg := rfl
@[simp] theorem State.busWrite_palSpeed (b : Byte) : (s.busWrite b).palSpeed = s.palSpeed := rfl
@[simp] theorem State.busWrite_busHeld (b : Byte) : (s.busWrite b).busHeld = s.busHeld := rfl
@[simp] theorem State.busWrite_inPos (b : Byte) : (s.busWrite b).inPos = s.inPos := rfl
@[simp] theorem State.busWrite_input (b : Byte) : (s.busWrite b).input = s.input := rfl
@[simp] theorem State.busWrite_env (b : Byte) : (s.busWrite b).env = s.env := rfl
@[simp] theorem State.busWrite_draws (b : Byte) : (s.busWrite b).draws = s.draws := rfl
@[simp] theorem State.busWrite_trace (b : Byte) : (s.busWrite b).trace = s.trace ++ [.write b] := rfl
@[simp] theorem State.busWrite_tbLen (b : Byte) : (s.busWrite b).tbLen = s.tbLen := rfl
@[simp] theorem State.busWrite_token (b : Byte) (n : Nat) : (s.busWrite b).token n = s.token n := rfl

/-! ### busAck -/

@[simp] theorem State.busAck_speed : s.busAck.speed = s.speed := rfl
@[simp] theorem State.busAck_bcast : s.busAck.bcast = s.bcast := rfl
@[simp] theorem State.busAck_lasterr : s.busAck.lasterr = s.lasterr := rfl
@[simp] theorem State.busAck_acc : s.busAck.acc = s.acc := rfl
@[simp] theorem State.busAck_admin : s.busAck.admin = s.admin := rfl
@[simp] theorem State.busAck_tb : s.busAck.tb = s.tb := rfl
@[simp] theorem State.busAck_mode : s.busAck.mode = s.mode := rfl
@[simp] theorem State.busAck_iReg : s.busAck.iReg = s.iReg := rfl
@[simp] theorem State.busAck_tReg : s.busAck.tReg = s.tReg := rfl
@[simp] theorem State.busAck_rp : s.busAck.rp = s.rp := rfl
@[simp] theorem State.busAck_nReg : s.busAck.nReg = s.nReg := rfl
@[simp] theorem State.busAck_sReg : s.busAck.sReg = s.sReg := rfl
@[simp] theorem State.busAck_dbReg : s.busAck.dbReg = s.dbReg := rfl
@[simp] theorem State.busAck_err : s.busAck.err = s.err := rfl
@[simp] theorem State.busAck_aReg : s.busAck.aReg = s.aReg := rfl
@[simp] theorem State.busAck_abReg : s.busAck.abReg = s.abReg := rfl
@[simp] theorem State.busAck_kReg : s.busAck.kReg = s.kReg := rfl
@[simp] theorem State.busAck_palSpeed : s.busAck.palSpeed = s.palSpeed := rfl
@[simp] theorem State.busAck_busHeld : s.busAck.busHeld = s.busHeld := rfl
@[simp] theorem State.busAck_inPos : s.busAck.inPos = s.inPos := rfl
@[simp] theorem State.busAck_input : s.busAck.input = s.input := rfl
@[simp] theorem State.busAck_env : s.busAck.env = s.env := rfl
@[simp] theorem State.busAck_draws : s.busAck.draws = s.draws := rfl
@[simp] theorem State.busAck_trace : s.busAck.trace = s.trace ++ [.ack] := rfl
@[simp] theorem State.busAck_tbLen : s.busAck.tbLen = s.tbLen := rfl
@[simp] theorem State.busAck_token (n : Nat) : s.busAck.token n = s.token n := rfl

/-! ### busNack -/

@[simp] theorem State.busNack_speed : s.busNack.speed = s.speed := rfl
@[simp] theorem State.busNack_bcast : s.busNack.bcast = s.bcast := rfl
@[simp] theorem State.busNack_lasterr : s.busNack.lasterr = s.lasterr := rfl
@[simp] theorem State.busNack_acc : s.busNack.acc = s.acc := rfl
@[simp] theorem State.busNack_admin : s.busNack.admin = s.admin := rfl
@[simp] theorem State.busNack_tb : s.busNack.tb = s.tb := rfl
@[simp] theorem State.busNack_mode : s.busNack.mode = s.mode := rfl
@[simp] theorem State.busNack_iReg : s.busNack.iReg = s.iReg := rfl
@[simp] theorem State.busNack_tReg : s.busNack.tReg = s.tReg := rfl
@[simp] theorem State.busNack_rp : s.busNack.rp = s.rp := rfl
@[simp] theorem State.busNack_nReg : s.busNack.nReg = s.nReg := rfl
@[simp] theorem State.busNack_sReg : s.busNack.sReg = s.sReg := rfl
@[simp] theorem State.busNack_dbReg : s.busNack.dbReg = s.dbReg := rfl
@[simp] theorem State.busNack_err : s.busNack.err = s.err := rfl
@[simp] theorem State.busNack_aReg : s.busNack.aReg = s.aReg := rfl
@[simp] theorem State.busNack_abReg : s.busNack.abReg = s.abReg := rfl
@[simp] theorem State.busNack_kReg : s.busNack.kReg = s.kReg := rfl
@[simp] theorem State.busNack_palSpeed : s.busNack.palSpeed = s.palSpeed := rfl
@[simp] theorem State.busNack_busHeld : s.busNack.busHeld = s.busHeld := rfl
@[simp] theorem State.busNack_inPos : s.busNack.inPos = s.inPos := rfl
@[simp] theorem State.busNack_input : s.busNack.input = s.input := rfl
@[simp] theorem State.busNack_env : s.busNack.env = s.env := rfl
@[simp] theorem State.busNack_draws : s.busNack.draws = s.draws := rfl
@[simp] theorem State.busNack_trace : s.busNack.trace = s.trace ++ [.nack] := rfl
@[simp] theorem State.busNack_tbLen : s.busNack.tbLen = s.tbLen := rfl
@[simp] theorem State.busNack_token (n : Nat) : s.busNack.token n = s.token n := rfl

/-! ### busStop -/

@[simp] theorem State.busStop_speed : s.busStop.speed = s.speed := rfl
@[simp] theorem State.busStop_bcast : s.busStop.bcast = s.bcast := rfl
@[simp] theorem State.busStop_lasterr : s.busStop.lasterr = s.lasterr := rfl
@[simp] theorem State.busStop_acc : s.busStop.acc = s.acc := rfl
@[simp] theorem State.busStop_admin : s.busStop.admin = s.admin := rfl
@[simp] theorem State.busStop_tb : s.busStop.tb = s.tb := rfl
@[simp] theorem State.busStop_mode : s.busStop.mode = s.mode := rfl
@[simp] theorem State.busStop_iReg : s.busStop.iReg = s.iReg := rfl
@[simp] theorem State.busStop_tReg : s.busStop.tReg = s.tReg := rfl
@[simp] theorem State.busStop_rp : s.busStop.rp = s.rp := rfl
@[simp] theorem State.busStop_nReg : s.busStop.nReg = s.nReg := rfl
@[simp] theorem State.busStop_sReg : s.busStop.sReg = s.sReg := rfl
@[simp] theorem State.busStop_dbReg : s.busStop.dbReg = s.dbReg := rfl
@[simp] theorem State.busStop_err : s.busStop.err = s.err := rfl
@[simp] theorem State.busStop_aReg : s.busStop.aReg = s.aReg := rfl
@[simp] theorem State.busStop_abReg : s.busStop.abReg = s.abReg := rfl
@[simp] theorem State.busStop_kReg : s.busStop.kReg = s.kReg := rfl
@[simp] theorem State.busStop_palSpeed : s.busStop.palSpeed = s.palSpeed := rfl
@[simp] theorem State.busStop_busHeld : s.busStop.busHeld = false := rfl
@[simp] theorem State.busStop_inPos : s.busStop.inPos = s.inPos := rfl
@[simp] theorem State.busStop_input : s.busStop.input = s.input := rfl
@[simp] theorem State.busStop_env : s.busStop.env = s.env := rfl
@[simp] theorem State.busStop_draws : s.busStop.draws = s.draws := rfl
@[simp] theorem State.busStop_trace : s.busStop.trace = s.trace ++ [.stop] := rfl
@[simp] theorem State.busStop_tbLen : s.busStop.tbLen = s.tbLen := rfl
@[simp] theorem State.busStop_token (n : Nat) : s.busStop.token n = s.token n := rfl

/-! ### setSpeed -/

@[simp] theorem State.setSpeed_speed (t : SpeedTier) : (s.setSpeed t).speed = t := rfl
@[simp] theorem State.setSpeed_bcast (t : SpeedTier) : (s.setSpeed t).bcast = s.bcast := rfl
@[simp] theorem State.setSpeed_lasterr (t : SpeedTier) : (s.setSpeed t).lasterr = s.lasterr := rfl
@[simp] theorem State.setSpeed_acc (t : SpeedTier) : (s.setSpeed t).acc = s.acc := rfl
@[simp] theorem State.setSpeed_admin (t : SpeedTier) : (s.setSpeed t).admin = s.admin := rfl
@[simp] theorem State.setSpeed_tb (t : SpeedTier) : (s.setSpeed t).tb = s.tb := rfl
@[simp] theorem State.setSpeed_mode (t : SpeedTier) : (s.setSpeed t).mode = s.mode := rfl
@[simp] theorem State.setSpeed_iReg (t : SpeedTier) : (s.setSpeed t).iReg = s.iReg := rfl
@[simp] theorem State.setSpeed_tReg (t : SpeedTier) : (s.setSpeed t).tReg = s.tReg := rfl
@[simp] theorem State.setSpeed_rp (t : SpeedTier) : (s.setSpeed t).rp = s.rp := rfl
@[simp] theorem State.setSpeed_nReg (t : SpeedTier) : (s.setSpeed t).nReg = s.nReg := rfl
@[simp] theorem State.setSpeed_sReg (t : SpeedTier) : (s.setSpeed t).sReg = s.sReg := rfl
@[simp] theorem State.setSpeed_dbReg (t : SpeedTier) : (s.setSpeed t).dbReg = s.dbReg := rfl
@[simp] theorem State.setSpeed_err (t : SpeedTier) : (s.setSpeed t).err = s.err := rfl
@[simp] theorem State.setSpeed_aReg (t : SpeedTier) : (s.setSpeed t).aReg = s.aReg := rfl
@[simp] theorem State.setSpeed_abReg (t : SpeedTier) : (s.setSpeed t).abReg = s.abReg := rfl
@[simp] theorem State.setSpeed_kReg (t : SpeedTier) : (s.setSpeed t).kReg = s.kReg := rfl
@[simp] theorem State.setSpeed_palSpeed (t : SpeedTier) : (s.setSpeed t).palSpeed = t := rfl
@[simp] theorem State.setSpeed_busHeld (t : SpeedTier) : (s.setSpeed t).busHeld = s.busHeld := rfl
@[simp] theorem State.setSpeed_inPos (t : SpeedTier) : (s.setSpeed t).inPos = s.inPos := rfl
@[simp] theorem State.setSpeed_input (t : SpeedTier) : (s.setSpeed t).input = s.input := rfl
@[simp] theorem State.setSpeed_env (t : SpeedTier) : (s.setSpeed t).env = s.env := rfl
@[simp] theorem State.setSpeed_draws (t : SpeedTier) : (s.setSpeed t).draws = s.draws := rfl
@[simp] theorem State.setSpeed_trace (t : SpeedTier) : (s.setSpeed t).trace = s.trace ++ [.setSpeed t] := rfl
@[simp] theorem State.setSpeed_tbLen (t : SpeedTier) : (s.setSpeed t).tbLen = s.tbLen := rfl
@[simp] theorem State.setSpeed_token (t : SpeedTier) (n : Nat) : (s.setSpeed t).token n = s.token n := rfl

/-! ### afterWait -/

@[simp] theorem State.afterWait_speed : s.afterWait.speed = s.speed := rfl
@[simp] theorem State.afterWait_bcast : s.afterWait.bcast = s.bcast := rfl
@[simp] theorem State.afterWait_lasterr : s.afterWait.lasterr = s.lasterr := rfl
@[simp] theorem State.afterWait_acc : s.afterWait.acc = s.acc := rfl
@[simp] theorem State.afterWait_admin : s.afterWait.admin = s.admin := rfl
@[simp] theorem State.afterWait_tb : s.afterWait.tb = s.tb := rfl
@[simp] theorem State.afterWait_mode : s.afterWait.mode = s.mode := rfl
@[simp] theorem State.afterWait_iReg : s.afterWait.iReg = s.iReg := rfl
@[simp] theorem State.afterWait_tReg : s.afterWait.tReg = s.tReg := rfl
@[simp] theorem State.afterWait_rp : s.afterWait.rp = s.rp := rfl
@[simp] theorem State.afterWait_nReg : s.afterWait.nReg = s.nReg := rfl
@[simp] theorem State.afterWait_sReg : s.afterWait.sReg = s.sReg := rfl
@[simp] theorem State.afterWait_dbReg : s.afterWait.dbReg = s.dbReg := rfl
@[simp] theorem State.afterWait_err : s.afterWait.err = s.err := rfl
@[simp] theorem State.afterWait_aReg : s.afterWait.aReg = s.aReg := rfl
@[simp] theorem State.afterWait_abReg : s.afterWait.abReg = s.abReg := rfl
@[simp] theorem State.afterWait_kReg : s.afterWait.kReg = s.kReg := rfl
@[simp] theorem State.afterWait_palSpeed : s.afterWait.palSpeed = s.palSpeed := rfl
@[simp] theorem State.afterWait_busHeld : s.afterWait.busHeld = s.busHeld := rfl
@[simp] theorem State.afterWait_inPos : s.afterWait.inPos = s.inPos := rfl
@[simp] theorem State.afterWait_input : s.afterWait.input = s.input := rfl
@[simp] theorem State.afterWait_env : s.afterWait.env = { s.env with waits := s.env.waits.tail } := rfl
@[simp] theorem State.afterWait_draws : s.afterWait.draws = s.draws + 1 := rfl
@[simp] theorem State.afterWait_trace : s.afterWait.trace = s.trace ++ [.wait s.waitAnswer] := rfl
@[simp] theorem State.afterWait_tbLen : s.afterWait.tbLen = s.tbLen := rfl
@[simp] theorem State.afterWait_token (n : Nat) : s.afterWait.token n = s.token n := rfl

/-! ### afterRelease -/

@[simp] theorem State.afterRelease_speed : s.afterRelease.speed = s.speed := rfl
@[simp] theorem State.afterRelease_bcast : s.afterRelease.bcast = s.bcast := rfl
@[simp] theorem State.afterRelease_lasterr : s.afterRelease.lasterr = s.lasterr := rfl
@[simp] theorem State.afterRelease_acc : s.afterRelease.acc = s.acc := rfl
@[simp] theorem State.afterRelease_admin : s.afterRelease.admin = s.admin := rfl
@[simp] theorem State.afterRelease_tb : s.afterRelease.tb = s.tb := rfl
@[simp] theorem State.afterRelease_mode : s.afterRelease.mode = s.mode := rfl
@[simp] theorem State.afterRelease_iReg : s.afterRelease.iReg = s.iReg := rfl
@[simp] theorem State.afterRelease_tReg : s.afterRelease.tReg = s.tReg := rfl
@[simp] theorem State.afterRelease_rp : s.afterRelease.rp = s.rp := rfl
@[simp] theorem State.afterRelease_nReg : s.afterRelease.nReg = s.nReg := rfl
@[simp] theorem State.afterRelease_sReg : s.afterRelease.sReg = s.sReg := rfl
@[simp] theorem State.afterRelease_dbReg : s.afterRelease.dbReg = s.dbReg := rfl
@[simp] theorem State.afterRelease_err : s.afterRelease.err = s.err := rfl
@[simp] theorem State.afterRelease_aReg : s.afterRelease.aReg = s.aReg := rfl
@[simp] theorem State.afterRelease_abReg : s.afterRelease.abReg = s.abReg := rfl
@[simp] theorem State.afterRelease_kReg : s.afterRelease.kReg = s.kReg := rfl
@[simp] theorem State.afterRelease_palSpeed : s.afterRelease.palSpeed = s.palSpeed := rfl
@[simp] theorem State.afterRelease_busHeld : s.afterRelease.busHeld = s.busHeld := rfl
@[simp] theorem State.afterRelease_inPos : s.afterRelease.inPos = s.inPos := rfl
@[simp] theorem State.afterRelease_input : s.afterRelease.input = s.input := rfl
@[simp] theorem State.afterRelease_env : s.afterRelease.env = { s.env with releases := s.env.releases.tail } := rfl
@[simp] theorem State.afterRelease_draws : s.afterRelease.draws = s.draws + 1 := rfl
@[simp] theorem State.afterRelease_trace : s.afterRelease.trace = s.trace ++ [.release s.releaseAnswer] := rfl
@[simp] theorem State.afterRelease_tbLen : s.afterRelease.tbLen = s.tbLen := rfl
@[simp] theorem State.afterRelease_token (n : Nat) : s.afterRelease.token n = s.token n := rfl

/-! ### afterStatus -/

@[simp] theorem State.afterStatus_speed : s.afterStatus.speed = s.speed := rfl
@[simp] theorem State.afterStatus_bcast : s.afterStatus.bcast = s.bcast := rfl
@[simp] theorem State.afterStatus_lasterr : s.afterStatus.lasterr = s.lasterr := rfl
@[simp] theorem State.afterStatus_acc : s.afterStatus.acc = s.acc := rfl
@[simp] theorem State.afterStatus_admin : s.afterStatus.admin = s.admin := rfl
@[simp] theorem State.afterStatus_tb : s.afterStatus.tb = s.tb := rfl
@[simp] theorem State.afterStatus_mode : s.afterStatus.mode = s.mode := rfl
@[simp] theorem State.afterStatus_iReg : s.afterStatus.iReg = s.iReg := rfl
@[simp] theorem State.afterStatus_tReg : s.afterStatus.tReg = s.tReg := rfl
@[simp] theorem State.afterStatus_rp : s.afterStatus.rp = s.rp := rfl
@[simp] theorem State.afterStatus_nReg : s.afterStatus.nReg = s.nReg := rfl
@[simp] theorem State.afterStatus_sReg : s.afterStatus.sReg = s.statusAnswer := rfl
@[simp] theorem State.afterStatus_dbReg : s.afterStatus.dbReg = s.dbReg := rfl
@[simp] theorem State.afterStatus_err : s.afterStatus.err = s.err := rfl
@[simp] theorem State.afterStatus_aReg : s.afterStatus.aReg = s.aReg := rfl
@[simp] theorem State.afterStatus_abReg : s.afterStatus.abReg = s.abReg := rfl
@[simp] theorem State.afterStatus_kReg : s.afterStatus.kReg = s.kReg := rfl
@[simp] theorem State.afterStatus_palSpeed : s.afterStatus.palSpeed = s.palSpeed := rfl
@[simp] theorem State.afterStatus_busHeld : s.afterStatus.busHeld = s.busHeld := rfl
@[simp] theorem State.afterStatus_inPos : s.afterStatus.inPos = s.inPos := rfl
@[simp] theorem State.afterStatus_input : s.afterStatus.input = s.input := rfl
@[simp] theorem State.afterStatus_env : s.afterStatus.env = { s.env with statuses := s.env.statuses.tail } := rfl
@[simp] theorem State.afterStatus_draws : s.afterStatus.draws = s.draws + 1 := rfl
@[simp] theorem State.afterStatus_trace : s.afterStatus.trace = s.trace ++ [.status s.statusAnswer] := rfl
@[simp] theorem State.afterStatus_tbLen : s.afterStatus.tbLen = s.tbLen := rfl
@[simp] theorem State.afterStatus_token (n : Nat) : s.afterStatus.token n = s.token n := rfl

/-! ### afterRead -/

@[simp] theorem State.afterRead_speed : s.afterRead.speed = s.speed := rfl
@[simp] theorem State.afterRead_bcast : s.afterRead.bcast = s.bcast := rfl
@[simp] theorem State.afterRead_lasterr : s.afterRead.lasterr = s.lasterr := rfl
@[simp] theorem State.afterRead_acc : s.afterRead.acc = s.acc := rfl
@[simp] theorem State.afterRead_admin : s.afterRead.admin = s.admin := rfl
@[simp] theorem State.afterRead_tb : s.afterRead.tb = s.tb := rfl
@[simp] theorem State.afterRead_mode : s.afterRead.mode = s.mode := rfl
@[simp] theorem State.afterRead_iReg : s.afterRead.iReg = s.iReg := rfl
@[simp] theorem State.afterRead_tReg : s.afterRead.tReg = s.tReg := rfl
@[simp] theorem State.afterRead_rp : s.afterRead.rp = s.rp := rfl
@[simp] theorem State.afterRead_nReg : s.afterRead.nReg = s.nReg := rfl
@[simp] theorem State.afterRead_sReg : s.afterRead.sReg = s.sReg := rfl
@[simp] theorem State.afterRead_dbReg : s.afterRead.dbReg = s.dataAnswer := rfl
@[simp] theorem State.afterRead_err : s.afterRead.err = s.err := rfl
@[simp] theorem State.afterRead_aReg : s.afterRead.aReg = s.aReg := rfl
@[simp] theorem State.afterRead_abReg : s.afterRead.abReg = s.abReg := rfl
@[simp] theorem State.afterRead_kReg : s.afterRead.kReg = s.kReg := rfl
@[simp] theorem State.afterRead_palSpeed : s.afterRead.palSpeed = s.palSpeed := rfl
@[simp] theorem State.afterRead_busHeld : s.afterRead.busHeld = s.busHeld := rfl
@[simp] theorem State.afterRead_inPos : s.afterRead.inPos = s.inPos := rfl
@[simp] theorem State.afterRead_input : s.afterRead.input = s.input := rfl
@[simp] theorem State.afterRead_env : s.afterRead.env = { s.env with datas := s.env.datas.tail } := rfl
@[simp] theorem State.afterRead_draws : s.afterRead.draws = s.draws + 1 := rfl
@[simp] theorem State.afterRead_trace : s.afterRead.trace = s.trace ++ [.read s.dataAnswer] := rfl
@[simp] theorem State.afterRead_tbLen : s.afterRead.tbLen = s.tbLen := rfl
@[simp] theorem State.afterRead_token (n : Nat) : s.afterRead.token n = s.token n := rfl

/-! ### afterReset -/

@[simp] theorem State.afterReset_speed : s.afterReset.speed = s.speed := rfl
@[simp] theorem State.afterReset_bcast : s.afterReset.bcast = s.bcast := rfl
@[simp] theorem State.afterReset_lasterr : s.afterReset.lasterr = s.lasterr := rfl
@[simp] theorem State.afterReset_acc : s.afterReset.acc = s.acc := rfl
@[simp] theorem State.afterReset_admin : s.afterReset.admin = s.admin := rfl
@[simp] theorem State.afterReset_tb : s.afterReset.tb = s.tb := rfl
@[simp] theorem State.afterReset_mode : s.afterReset.mode = s.mode := rfl
@[simp] theorem State.afterReset_iReg : s.afterReset.iReg = s.iReg := rfl
@[simp] theorem State.afterReset_tReg : s.afterReset.tReg = s.tReg := rfl
@[simp] theorem State.afterReset_rp : s.afterReset.rp = s.rp := rfl
@[simp] theorem State.afterReset_nReg : s.afterReset.nReg = s.nReg := rfl
@[simp] theorem State.afterReset_sReg : s.afterReset.sReg = s.sReg := rfl
@[simp] theorem State.afterReset_dbReg : s.afterReset.dbReg = s.dbReg := rfl
@[simp] theorem State.afterReset_err : s.afterReset.err = s.err := rfl
@[simp] theorem State.afterReset_aReg : s.afterReset.aReg = s.aReg := rfl
@[simp] theorem State.afterReset_abReg : s.afterReset.abReg = s.abReg := rfl
@[simp] theorem State.afterReset_kReg : s.afterReset.kReg = s.kReg := rfl
@[simp] theorem State.afterReset_palSpeed : s.afterReset.palSpeed = s.palSpeed := rfl
@[simp] theorem State.afterReset_busHeld : s.afterReset.busHeld = s.busHeld := rfl
@[simp] theorem State.afterReset_inPos : s.afterReset.inPos = s.inPos := rfl
@[simp] theorem State.afterReset_input : s.afterReset.input = s.input := rfl
@[simp] theorem State.afterReset_env : s.afterReset.env = { s.env with resets := s.env.resets.tail } := rfl
@[simp] theorem State.afterReset_draws : s.afterReset.draws = s.draws + 1 := rfl
@[simp] theorem State.afterReset_trace : s.afterReset.trace = s.trace ++ [.reset s.resetAnswer] := rfl
@[simp] theorem State.afterReset_tbLen : s.afterReset.tbLen = s.tbLen := rfl
@[simp] theorem State.afterReset_token (n : Nat) : s.afterReset.token n = s.token n := rfl

/-! ### tx -/

@[simp] theorem State.tx_speed (b : Byte) : (s.tx b).speed = s.speed := rfl
@[simp] theorem State.tx_bcast (b : Byte) : (s.tx b).bcast = s.bcast := rfl
@[simp] theorem State.tx_lasterr (b : Byte) : (s.tx b).lasterr = s.lasterr := rfl
@[simp] theorem State.tx_acc (b : Byte) : (s.tx b).acc = s.acc := rfl
@[simp] theorem State.tx_admin (b : Byte) : (s.tx b).admin = s.admin := rfl
@[simp] theorem State.tx_tb (b : Byte) : (s.tx b).tb = s.tb := rfl
@[simp] theorem State.tx_mode (b : Byte) : (s.tx b).mode = s.mode := rfl
@[simp] theorem State.tx_iReg (b : Byte) : (s.tx b).iReg = s.iReg := rfl
@[simp] theorem State.tx_tReg (b : Byte) : (s.tx b).tReg = s.tReg := rfl
@[simp] theorem State.tx_rp (b : Byte) : (s.tx b).rp = s.rp := rfl
@[simp] theorem State.tx_nReg (b : Byte) : (s.tx b).nReg = s.nReg := rfl
@[simp] theorem State.tx_sReg (b : Byte) : (s.tx b).sReg = s.sReg := rfl
@[simp] theorem State.tx_dbReg (b : Byte) : (s.tx b).dbReg = s.dbReg := rfl
@[simp] theorem State.tx_err (b : Byte) : (s.tx b).err = s.err := rfl
@[simp] theorem State.tx_aReg (b : Byte) : (s.tx b).aReg = s.aReg := rfl
@[simp] theorem State.tx_abReg (b : Byte) : (s.tx b).abReg = s.abReg := rfl
@[simp] theorem State.tx_kReg (b : Byte) : (s.tx b).kReg = s.kReg := rfl
@[simp] theorem State.tx_palSpeed (b : Byte) : (s.tx b).palSpeed = s.palSpeed := rfl
@[simp] theorem State.tx_busHeld (b : Byte) : (s.tx b).busHeld = s.busHeld := rfl
@[simp] theorem State.tx_inPos (b : Byte) : (s.tx b).inPos = s.inPos := rfl
@[simp] theorem State.tx_input (b : Byte) : (s.tx b).input = s.input := rfl
@[simp] theorem State.tx_env (b : Byte) : (s.tx b).env = { s.env with sends := s.env.sends.tail } := rfl
@[simp] theorem State.tx_draws (b : Byte) : (s.tx b).draws = s.draws + 1 := rfl
@[simp] theorem State.tx_trace (b : Byte) : (s.tx b).trace = s.trace ++ [.tx b s.sendAnswer] := rfl
@[simp] theorem State.tx_tbLen (b : Byte) : (s.tx b).tbLen = s.tbLen := rfl
@[simp] theorem State.tx_token (b : Byte) (n : Nat) : (s.tx b).token n = s.token n := rfl

/-! ### raiseFatal -/

@[simp] theorem State.raiseFatal_speed (c : Nat) : (s.raiseFatal c).speed = s.speed := rfl
@[simp] theorem State.raiseFatal_bcast (c : Nat) : (s.raiseFatal c).bcast = s.bcast := rfl
@[simp] theorem State.raiseFatal_lasterr (c : Nat) : (s.raiseFatal c).lasterr = s.lasterr := rfl
@[simp] theorem State.raiseFatal_acc (c : Nat) : (s.raiseFatal c).acc = s.acc := rfl
@[simp] theorem State.raiseFatal_admin (c : Nat) : (s.raiseFatal c).admin = s.admin := rfl
@[simp] theorem State.raiseFatal_tb (c : Nat) : (s.raiseFatal c).tb = s.tb := rfl
@[simp] theorem State.raiseFatal_mode (c : Nat) : (s.raiseFatal c).mode = .halted c := rfl
@[simp] theorem State.raiseFatal_iReg (c : Nat) : (s.raiseFatal c).iReg = s.iReg := rfl
@[simp] theorem State.raiseFatal_tReg (c : Nat) : (s.raiseFatal c).tReg = s.tReg := rfl
@[simp] theorem State.raiseFatal_rp (c : Nat) : (s.raiseFatal c).rp = s.rp := rfl
@[simp] theorem State.raiseFatal_nReg (c : Nat) : (s.raiseFatal c).nReg = s.nReg := rfl
@[simp] theorem State.raiseFatal_sReg (c : Nat) : (s.raiseFatal c).sReg = s.sReg := rfl
@[simp] theorem State.raiseFatal_dbReg (c : Nat) : (s.raiseFatal c).dbReg = s.dbReg := rfl
@[simp] theorem State.raiseFatal_err (c : Nat) : (s.raiseFatal c).err = s.err := rfl
@[simp] theorem State.raiseFatal_aReg (c : Nat) : (s.raiseFatal c).aReg = s.aReg := rfl
@[simp] theorem State.raiseFatal_abReg (c : Nat) : (s.raiseFatal c).abReg = s.abReg := rfl
@[simp] theorem State.raiseFatal_kReg (c : Nat) : (s.raiseFatal c).kReg = s.kReg := rfl
@[simp] theorem State.raiseFatal_palSpeed (c : Nat) : (s.raiseFatal c).palSpeed = s.palSpeed := rfl
@[simp] theorem State.raiseFatal_busHeld (c : Nat) : (s.raiseFatal c).busHeld = s.busHeld := rfl
@[simp] theorem State.raiseFatal_inPos (c : Nat) : (s.raiseFatal c).inPos = s.inPos := rfl
@[simp] theorem State.raiseFatal_input (c : Nat) : (s.raiseFatal c).input = s.input := rfl
@[simp] theorem State.raiseFatal_env (c : Nat) : (s.raiseFatal c).env = s.env := rfl
@[simp] theorem State.raiseFatal_draws (c : Nat) : (s.raiseFatal c).draws = s.draws := rfl
@[simp] theorem State.raiseFatal_trace (c : Nat) : (s.raiseFatal c).trace = s.trace ++ [.fatal c] := rfl
@[simp] theorem State.raiseFatal_tbLen (c : Nat) : (s.raiseFatal c).tbLen = s.tbLen := rfl
@[simp] theorem State.raiseFatal_token (c : Nat) (n : Nat) : (s.raiseFatal c).token n = s.token n := rfl

/-! ### markAdmin -/

@[simp] theorem State.markAdmin_speed : s.markAdmin.speed = s.speed := rfl
@[simp] theorem State.markAdmin_bcast : s.markAdmin.bcast = s.bcast := rfl
@[simp] theorem State.markAdmin_lasterr : s.markAdmin.lasterr = s.lasterr := rfl
@[simp] theorem State.markAdmin_acc : s.markAdmin.acc = s.acc := rfl
@[simp] theorem State.markAdmin_admin : s.markAdmin.admin = true := rfl
@[simp] theorem State.markAdmin_tb : s.markAdmin.tb = s.tb := rfl
@[simp] theorem State.markAdmin_mode : s.markAdmin.mode = s.mode := rfl
@[simp] theorem State.markAdmin_iReg : s.markAdmin.iReg = s.iReg := rfl
@[simp] theorem State.markAdmin_tReg : s.markAdmin.tReg = s.tReg := rfl
@[simp] theorem State.markAdmin_rp : s.markAdmin.rp = s.rp := rfl
@[simp] theorem State.markAdmin_nReg : s.markAdmin.nReg = s.nReg := rfl
@[simp] theorem State.markAdmin_sReg : s.markAdmin.sReg = s.sReg := rfl
@[simp] theorem State.markAdmin_dbReg : s.markAdmin.dbReg = s.dbReg := rfl
@[simp] theorem State.markAdmin_err : s.markAdmin.err = s.err := rfl
@[simp] theorem State.markAdmin_aReg : s.markAdmin.aReg = s.aReg := rfl
@[simp] theorem State.markAdmin_abReg : s.markAdmin.abReg = s.abReg := rfl
@[simp] theorem State.markAdmin_kReg : s.markAdmin.kReg = s.kReg := rfl
@[simp] theorem State.markAdmin_palSpeed : s.markAdmin.palSpeed = s.palSpeed := rfl
@[simp] theorem State.markAdmin_busHeld : s.markAdmin.busHeld = s.busHeld := rfl
@[simp] theorem State.markAdmin_inPos : s.markAdmin.inPos = s.inPos := rfl
@[simp] theorem State.markAdmin_input : s.markAdmin.input = s.input := rfl
@[simp] theorem State.markAdmin_env : s.markAdmin.env = s.env := rfl
@[simp] theorem State.markAdmin_draws : s.markAdmin.draws = s.draws := rfl
@[simp] theorem State.markAdmin_trace : s.markAdmin.trace = s.trace := rfl
@[simp] theorem State.markAdmin_tbLen : s.markAdmin.tbLen = s.tbLen := rfl
@[simp] theorem State.markAdmin_token (n : Nat) : s.markAdmin.token n = s.token n := rfl

end Sys2Proof.Machine
end

