-- ==== Sys2Proof/Laws/Buffer.lean ====
section
/-!
SUPPORT. The laws of the Transaction Buffer: a read after a write, every other slot, the canonical form, the length
counter, and what an append does.
-/

namespace Sys2Proof.Machine

/-! ### One slot -/

theorem readSlot_putSlot_same (b : Buffer) (a : Nat) (w : Word) : readSlot (putSlot b a w) a = some w := by
  induction b with
  | nil => simp [putSlot, readSlot]
  | cons c r ih =>
    obtain ⟨k, v⟩ := c
    simp only [putSlot]
    split
    · simp [readSlot]
    · split
      · simp [readSlot]
      · have : k ≠ a := by omega
        simp [readSlot, this, ih]

theorem readSlot_putSlot_ne (b : Buffer) {a x : Nat} (w : Word) (h : x ≠ a) :
    readSlot (putSlot b a w) x = readSlot b x := by
  induction b with
  | nil => simp [putSlot, readSlot, Ne.symm h]
  | cons c r ih =>
    obtain ⟨k, v⟩ := c
    simp only [putSlot]
    split
    · simp [readSlot, Ne.symm h]
    · split
      · subst_vars; simp [readSlot, Ne.symm h]
      · simp only [readSlot, ih]

theorem readSlot_filter_same (b : Buffer) (a : Nat) :
    readSlot (b.filter (fun c => c.1 != a)) a = slotReset a := by
  induction b with
  | nil => rfl
  | cons c r ih =>
    obtain ⟨k, v⟩ := c
    by_cases h : k = a
    · simpa [h] using ih
    · simp [h, readSlot, ih]

theorem readSlot_filter_ne (b : Buffer) {a x : Nat} (h : x ≠ a) :
    readSlot (b.filter (fun c => c.1 != a)) x = readSlot b x := by
  induction b with
  | nil => rfl
  | cons c r ih =>
    obtain ⟨k, v⟩ := c
    by_cases hk : k = a
    · subst hk; simpa [readSlot, Ne.symm h] using ih
    · simp [hk, readSlot, ih]

/-- A read after a write of the same slot gives the word written. -/
@[simp] theorem readSlot_writeSlot_same (b : Buffer) (a : Nat) (w : Word) :
    readSlot (writeSlot b a w) a = some w := by
  unfold writeSlot
  split
  · rw [readSlot_filter_same]; assumption
  · exact readSlot_putSlot_same b a w

/-- A write leaves every other slot alone. -/
theorem readSlot_writeSlot_ne (b : Buffer) {a x : Nat} (w : Word) (h : x ≠ a) :
    readSlot (writeSlot b a w) x = readSlot b x := by
  unfold writeSlot
  split
  · exact readSlot_filter_ne b h
  · exact readSlot_putSlot_ne b w h

/-! ### The canonical form -/

theorem bufferWfFrom_mono {lo lo' : Nat} {b : Buffer} (h : bufferWfFrom lo b = true) (hl : lo' ≤ lo) :
    bufferWfFrom lo' b = true := by
  cases b with
  | nil => rfl
  | cons c r =>
    obtain ⟨k, v⟩ := c
    simp only [bufferWfFrom, Bool.and_eq_true, decide_eq_true_eq] at h ⊢
    exact ⟨⟨⟨by omega, h.1.1.2⟩, h.1.2⟩, h.2⟩

theorem bufferWfFrom_put {lo : Nat} {b : Buffer} {a : Nat} {w : Word} (h : bufferWfFrom lo b = true)
    (hlo : lo ≤ a) (ha : a < Config.tbCap) (hw : slotReset a ≠ some w) :
    bufferWfFrom lo (putSlot b a w) = true := by
  induction b generalizing lo with
  | nil => simp [putSlot, bufferWfFrom, hlo, ha, hw]
  | cons c r ih =>
    obtain ⟨k, v⟩ := c
    simp only [bufferWfFrom, Bool.and_eq_true, decide_eq_true_eq] at h
    obtain ⟨⟨⟨h1, h2⟩, h3⟩, h4⟩ := h
    simp only [putSlot]
    split
    · rename_i hak
      simp only [bufferWfFrom, Bool.and_eq_true, decide_eq_true_eq]
      exact ⟨⟨⟨hlo, ha⟩, hw⟩, ⟨⟨by omega, h2⟩, h3⟩, h4⟩
    · split
      · subst_vars
        simp only [bufferWfFrom, Bool.and_eq_true, decide_eq_true_eq]
        exact ⟨⟨⟨hlo, ha⟩, hw⟩, h4⟩
      · simp only [bufferWfFrom, Bool.and_eq_true, decide_eq_true_eq]
        exact ⟨⟨⟨h1, h2⟩, h3⟩, ih h4 (by omega)⟩

theorem bufferWfFrom_filter {lo : Nat} {b : Buffer} (a : Nat) (h : bufferWfFrom lo b = true) :
    bufferWfFrom lo (b.filter (fun c => c.1 != a)) = true := by
  induction b generalizing lo with
  | nil => rfl
  | cons c r ih =>
    obtain ⟨k, v⟩ := c
    simp only [bufferWfFrom, Bool.and_eq_true, decide_eq_true_eq] at h
    obtain ⟨⟨⟨h1, h2⟩, h3⟩, h4⟩ := h
    by_cases hk : k = a
    · simpa [hk] using bufferWfFrom_mono (ih h4) (by omega)
    · simp only [List.filter_cons, bne_iff_ne, ne_eq, hk, not_false_eq_true, if_true]
      simp only [bufferWfFrom, Bool.and_eq_true, decide_eq_true_eq]
      exact ⟨⟨⟨h1, h2⟩, h3⟩, ih h4⟩

/-- A write of an existing slot keeps the canonical form. -/
theorem writeSlot_wf {b : Buffer} {a : Nat} (w : Word) (h : b.wf = true) (ha : a < Config.tbCap) :
    (writeSlot b a w).wf = true := by
  unfold writeSlot Buffer.wf
  split
  · exact bufferWfFrom_filter a h
  · rename_i hw
    exact bufferWfFrom_put h (Nat.zero_le a) ha hw

/-- The buffer of reset is canonical. -/
theorem reset_tb_wf : State.reset.tb.wf = true := rfl

/-! ### The length counter -/

@[simp] theorem bufferLen_writeSlot_zero (b : Buffer) (w : Word) : bufferLen (writeSlot b 0 w) = w := by
  simp [bufferLen]

theorem bufferLen_writeSlot_ne (b : Buffer) {a : Nat} (w : Word) (h : a ≠ 0) :
    bufferLen (writeSlot b a w) = bufferLen b := by
  rw [bufferLen, bufferLen, readSlot_writeSlot_ne b w (Ne.symm h)]

/-- A line start leaves `TB[0]` at 1 (R91). -/
@[simp] theorem startLine_tbLen (s : State) : s.startLine.tbLen = 1 := by
  simp [State.tbLen]

/-! ### Append -/

/-- All an append does to a buffer whose counter is in range (R102). -/
theorem appendSlot_spec (b : Buffer) (v : Word) (h1 : 1 ≤ (bufferLen b).toNat)
    (h2 : (bufferLen b).toNat < Config.tbCap) :
    (bufferLen (appendSlot b v)).toNat = (bufferLen b).toNat + 1 ∧
      readSlot (appendSlot b v) (bufferLen b).toNat = some v ∧
      ∀ x, x ≠ 0 → x ≠ (bufferLen b).toNat → readSlot (appendSlot b v) x = readSlot b x := by
  have hne : (bufferLen b).toNat ≠ 0 := by omega
  have hlen := bufferLen_writeSlot_ne b v hne
  refine ⟨?_, ?_, ?_⟩
  · have : Config.tbCap = 260 := rfl
    have h1' : (1 : Word).toNat = 1 := rfl
    simp only [appendSlot, bufferLen_writeSlot_zero, hlen, BitVec.toNat_add, h1']
    omega
  · simp only [appendSlot]
    rw [readSlot_writeSlot_ne _ _ hne, readSlot_writeSlot_same]
  · intro x hx hxl
    simp only [appendSlot]
    rw [readSlot_writeSlot_ne _ _ hx, readSlot_writeSlot_ne _ _ hxl]

/-- An append within the capacity keeps the canonical form. -/
theorem appendSlot_wf {b : Buffer} (v : Word) (h : b.wf = true) (hl : (bufferLen b).toNat < Config.tbCap) :
    (appendSlot b v).wf = true :=
  writeSlot_wf _ (writeSlot_wf v h hl) (by decide)

end Sys2Proof.Machine
end

