-- ==== Sys2Proof/Laws/Ops.lean ====
section
/-!
SUPPORT. For each shared operation, once, everything it can do: if it answers a next state, then one of these cases
holds.
-/

namespace Sys2Proof.Machine

/-- A bus reset: the caller's continuation, or the sub-state before the fatal entry (R227). -/
theorem busReset_next {fatal : Mode} {ok : State → State} {s t : State} (h : busReset fatal ok s = .next t) :
    (s.resetAnswer = .ok ∧ t = ok s.afterReset) ∨ (s.resetAnswer = .fail ∧ t = s.afterReset.goto fatal) := by
  unfold busReset at h
  split at h <;> rename_i hr <;> cases h
  · exact .inl ⟨hr, rfl⟩
  · exact .inr ⟨hr, rfl⟩

/-- A bus reset never stops the machine by itself. -/
theorem busReset_total (fatal : Mode) (ok : State → State) (s : State) : ∃ t, busReset fatal ok s = .next t := by
  unfold busReset
  split <;> exact ⟨_, rfl⟩

/-- A walk's fetch: the cleanup at the end, the live token entered, or a slot that holds no token of the line
(R141). -/
theorem walkFetch_cases (enter : State → Out) (stop : Mode) (s : State) :
    (s.iReg.toNat = s.tbLen ∧ walkFetch enter stop s = .next (s.goto stop)) ∨
      (s.iReg.toNat ≠ s.tbLen ∧ ∃ w, s.token s.iReg.toNat = some w ∧
        walkFetch enter stop s = enter { s with tReg := w }) ∨
      (s.iReg.toNat ≠ s.tbLen ∧ s.token s.iReg.toNat = none ∧
        walkFetch enter stop s = .fault (.deadSlot s.iReg.toNat)) := by
  unfold walkFetch
  split
  · exact .inl ⟨by assumption, rfl⟩
  · rename_i hi
    split
    · rename_i w hw; exact .inr (.inl ⟨hi, w, hw, rfl⟩)
    · rename_i hn; exact .inr (.inr ⟨hi, hn, rfl⟩)

/-- A walk's fetch, where it answers a next state (R141). -/
theorem walkFetch_next {enter : State → Out} {stop : Mode} {s t : State} (h : walkFetch enter stop s = .next t) :
    (s.iReg.toNat = s.tbLen ∧ t = s.goto stop) ∨
      (s.iReg.toNat ≠ s.tbLen ∧ ∃ w, s.token s.iReg.toNat = some w ∧ enter { s with tReg := w } = .next t) := by
  rcases walkFetch_cases enter stop s with ⟨hi, e⟩ | ⟨hi, w, hw, e⟩ | ⟨_, _, e⟩ <;> rw [e] at h
  · cases h; exact .inl ⟨hi, rfl⟩
  · exact .inr ⟨hi, w, hw, h⟩
  · cases h

/-- How an executor enters a fetched token: by its count test, or standing before its first call (R12, R142). -/
theorem enterToken_cases (token : Mode) (count : Word → State → Out) (s : State) :
    (¬ (s.rp = true ∧ s.tReg.toNat < Config.startBase) ∧ enterToken token count s = .next (s.goto token)) ∨
      (s.rp = true ∧ s.tReg.toNat < Config.startBase ∧ enterToken token count s = count s.tReg s) := by
  unfold enterToken
  split
  · rename_i hc; exact .inr ⟨hc.1, hc.2, rfl⟩
  · rename_i hc; exact .inl ⟨hc, rfl⟩

/-- How the checked executor enters a token: a read-count of 0 flags NBR and aborts, another one stands before its
first byte, any other token before its first call (R142, R148). -/
theorem checkedEnter_cases (s : State) :
    (¬ (s.rp = true ∧ s.tReg.toNat < Config.startBase) ∧ checkedEnter s = .next (s.goto (.execChecked .token))) ∨
      (s.rp = true ∧ s.tReg = 0 ∧
        checkedEnter s = .next (({ s with nReg := s.tReg }.flag .nbr).goto (.execChecked .stop))) ∨
      (s.rp = true ∧ s.tReg.toNat < Config.startBase ∧ s.tReg ≠ 0 ∧
        checkedEnter s = .next { s with nReg := s.tReg, kReg := 1, mode := .execChecked .readCall }) := by
  rcases enterToken_cases (.execChecked .token) checkedCount s with ⟨hc, e⟩ | ⟨hr, hl, e⟩
  · exact .inl ⟨hc, e⟩
  · rw [checkedEnter, e, checkedCount]
    split
    · rename_i h0; exact .inr (.inl ⟨hr, h0, rfl⟩)
    · rename_i h0; exact .inr (.inr ⟨hr, hl, h0, rfl⟩)

/-- How the Broadcast executor enters a token: a read-count of 0 is passed over, another one stands before its first
byte, any other token before its first call (R172, R174, R175). -/
theorem bcastEnter_cases (s : State) :
    (¬ (s.rp = true ∧ s.tReg.toNat < Config.startBase) ∧ bcastEnter s = .next (s.goto (.execBcast .token))) ∨
      (s.rp = true ∧ s.tReg = 0 ∧ bcastEnter s = bcastStand { s with nReg := s.tReg, rp := false }) ∨
      (s.rp = true ∧ s.tReg.toNat < Config.startBase ∧ s.tReg ≠ 0 ∧
        bcastEnter s = .next { s with nReg := s.tReg, kReg := 1, mode := .execBcast .readCall }) := by
  rcases enterToken_cases (.execBcast .token) bcastCount s with ⟨hc, e⟩ | ⟨hr, hl, e⟩
  · exact .inl ⟨hc, e⟩
  · rw [bcastEnter, e, bcastCount]
    split
    · rename_i h0; exact .inr (.inl ⟨hr, h0, rfl⟩)
    · rename_i h0; exact .inr (.inr ⟨hr, hl, h0, rfl⟩)

/-- A live slot is read as it stands. -/
theorem token_eq_some {s : State} {a : Nat} {w : Word} (h : s.token a = some w) :
    1 ≤ a ∧ a < s.tbLen ∧ readSlot s.tb a = some w := by
  unfold State.token at h
  split at h
  · rename_i ha; exact ⟨ha.1, ha.2, h⟩
  · cases h

/-- A terminator's append, where it answers a next state (R97 to R102). -/
theorem appendToken_next {v : Word} {s t : State} (h : appendToken v s = .next t) :
    s.tbLen < Config.tbCap ∧ t = { s with tb := appendSlot s.tb v, acc := 0 } := by
  unfold appendToken at h
  split at h
  · rename_i hl; cases h; exact ⟨hl, rfl⟩
  · cases h

/-- A wait of the checked executor (R153). -/
theorem checkedWait_next {ok : State → Out} {s t : State} (h : checkedWait ok s = .next t) :
    (s.waitAnswer = .done ∧ ok s.afterWait = .next t) ∨
      (s.waitAnswer = .timeout ∧ t = s.afterWait.goto (.execChecked .timeout)) := by
  unfold checkedWait at h
  split at h <;> rename_i hw
  · exact .inl ⟨hw, h⟩
  · cases h; exact .inr ⟨hw, rfl⟩

/-- A wait of the Broadcast executor (R176). -/
theorem bcastWait_next {ok : State → Out} {s t : State} (h : bcastWait ok s = .next t) :
    (s.waitAnswer = .done ∧ ok s.afterWait = .next t) ∨
      (s.waitAnswer = .timeout ∧ t = s.afterWait.goto (.execBcast .timeout)) := by
  unfold bcastWait at h
  split at h <;> rename_i hw
  · exact .inl ⟨hw, h⟩
  · cases h; exact .inr ⟨hw, rfl⟩

/-- A wait of the scanner (R191). -/
theorem scanWait_next {ok : ScanAt} {s t : State} (h : scanWait ok s = .next t) :
    (s.waitAnswer = .done ∧ t = s.afterWait.goto (scanMode ok)) ∨
      (s.waitAnswer = .timeout ∧ t = s.afterWait.goto (scanMode .timeout)) := by
  unfold scanWait at h
  split at h <;> rename_i hw <;> cases h
  · exact .inl ⟨hw, rfl⟩
  · exact .inr ⟨hw, rfl⟩

/-- One step of a text: its next byte goes out, and after the last one the text is done (R203). -/
theorem sendText_next {p : List Byte → Mode} {rest : List Byte} {done : State → Out} {s t : State}
    (h : sendText p rest done s = .next t) :
    (rest = [] ∧ done s = .next t) ∨ (∃ b, rest = [b] ∧ done (s.tx b) = .next t) ∨
      (∃ b c r, rest = b :: c :: r ∧ t = (s.tx b).goto (p (c :: r))) := by
  unfold sendText at h
  split at h
  · exact .inl ⟨rfl, h⟩
  · exact .inr (.inl ⟨_, rfl, h⟩)
  · cases h; exact .inr (.inr ⟨_, _, _, rfl, rfl⟩)

/-- The scanner's loop test (R190). -/
theorem scanLoop_cases (s : State) :
    (s.aReg.toNat = Config.scanCount ∧ scanLoop s = s.goto (scanMode .stop)) ∨
      (s.aReg.toNat ≠ Config.scanCount ∧ scanLoop s = s.goto (scanMode .start)) := by
  unfold scanLoop
  split
  · exact .inl ⟨by assumption, rfl⟩
  · exact .inr ⟨by assumption, rfl⟩

/-- `SCAN_COUNT` is 128 or 129 (R190). -/
theorem scanCount_cases : Config.scanCount = 128 ∨ Config.scanCount = 129 := by
  unfold Config.scanCount
  split <;> simp

/-- Distinct kinds have distinct bits (R80). -/
theorem errBit_injective : Function.Injective Config.errBit := by
  intro a b h
  have := Config.errPerm.injective h
  revert this
  cases a <;> cases b <;> decide

/-- The two fatal codes are non-zero and distinct (R225, D20). -/
theorem fatal_codes :
    Config.fatalOverflow ≠ 0 ∧ Config.fatalPeriph ≠ 0 ∧ Config.fatalOverflow ≠ Config.fatalPeriph := by
  unfold Config.fatalPeriph Config.fatalOverflow
  split <;> omega

/-- A bit of an error mask is set exactly where `ERRBIT` puts the kind. -/
theorem errMask_getLsbD (k : ErrKind) (i : Nat) :
    (errMask k).getLsbD i = decide (i = (Config.errBit k).val) := by
  simp only [errMask, BitVec.getLsbD_twoPow]
  by_cases hi : i = (Config.errBit k).val
  · simp [hi]
  · simp [hi, Ne.symm hi]

end Sys2Proof.Machine
end

