-- ==== Sys2Proof/Laws/PerInstr.lean ====
section
/-!
SUPPORT. The family `InRow`: the encoding of a well-formed instruction lies in its row of the opcode table, by the
row's format, match, mask and range (30_encoding.md R83).
-/

namespace Sys2Proof.Laws

/-- A row's encoding columns; `wide` is the format `word16`. -/
structure InRow.Row where
  wide : Bool
  value : Nat
  mask : Nat
  lo : Nat
  hi : Nat

/-- A character row: one byte, all its bits. -/
def InRow.char (v : Nat) : InRow.Row := ⟨false, v, 0xFF, 0, 0xFF⟩

/-- The row of an instruction. -/
def InRow.row : Instr → InRow.Row
  | .hex0 => InRow.char 0x30
  | .hex1 => InRow.char 0x31
  | .hex2 => InRow.char 0x32
  | .hex3 => InRow.char 0x33
  | .hex4 => InRow.char 0x34
  | .hex5 => InRow.char 0x35
  | .hex6 => InRow.char 0x36
  | .hex7 => InRow.char 0x37
  | .hex8 => InRow.char 0x38
  | .hex9 => InRow.char 0x39
  | .hexA => InRow.char 0x41
  | .hexB => InRow.char 0x42
  | .hexC => InRow.char 0x43
  | .hexD => InRow.char 0x44
  | .hexE => InRow.char 0x45
  | .hexF => InRow.char 0x46
  | .hexALc => InRow.char 0x61
  | .hexBLc => InRow.char 0x62
  | .hexCLc => InRow.char 0x63
  | .hexDLc => InRow.char 0x64
  | .hexELc => InRow.char 0x65
  | .hexFLc => InRow.char 0x66
  | .tSw => InRow.char 0x21
  | .tSr => InRow.char 0x3F
  | .tData => InRow.char 0x24
  | .tBlk => InRow.char 0x26
  | .tPec => InRow.char 0x23
  | .aScan => InRow.char 0x40
  | .aSpeed => InRow.char 0x25
  | .aErr => InRow.char 0x5E
  | .aBcast => InRow.char 0x2A
  | .aHelp => InRow.char 0x48
  | .aHelpLc => InRow.char 0x68
  | .aIdent => InRow.char 0x49
  | .aIdentLc => InRow.char 0x69
  | .aStd => InRow.char 0x53
  | .aStdLc => InRow.char 0x73
  | .aFast => InRow.char 0x54
  | .aFastLc => InRow.char 0x74
  | .aVslow => InRow.char 0x56
  | .aVslowLc => InRow.char 0x76
  | .eol => InRow.char 0x0A
  | .ignore _ => ⟨false, 0, 0, 0, 0xFF⟩
  | .startW _ _ => ⟨true, 0, 1, 1000, 65535⟩
  | .startR _ _ => ⟨true, 1, 1, 1000, 65535⟩
  | .readCount _ => ⟨true, 0, 0, 0, 999⟩
  | .dataWrite _ => ⟨true, 0, 0, 0, 999⟩

/-- A number under a row's mask and within its range. -/
abbrev InRow.fits (r : InRow.Row) (n : Nat) : Prop := n &&& r.mask = r.value ∧ r.lo ≤ n ∧ n ≤ r.hi

/-- The encoding of a well-formed instruction is in its row. -/
def InRow.Statement (i : Instr) : Prop :=
  i.wellFormed = true →
    match encode i with
    | .char b => (InRow.row i).wide = false ∧ InRow.fits (InRow.row i) b.toNat
    | .word w => (InRow.row i).wide = true ∧ InRow.fits (InRow.row i) w.toNat

/-- The value of a start token's word less 1000 (R70). -/
theorem startOffset_toNat (hi : Byte) (a : BitVec 7) (d : Bool) :
    (startOffset hi a d).toNat = hi.toNat * 256 + a.toNat * 2 + d.toNat := by
  have ha := a.isLt
  have hd : (BitVec.ofBool d).toNat = d.toNat := by cases d <;> rfl
  have hd2 : d.toNat < 2 := by cases d <;> decide
  unfold startOffset
  rw [BitVec.toNat_append, BitVec.toNat_append, hd,
    ← Nat.shiftLeft_add_eq_or_of_lt (by omega), ← Nat.shiftLeft_add_eq_or_of_lt (by omega),
    Nat.shiftLeft_eq, Nat.shiftLeft_eq]
  omega

/-- The word of a start token, where it does not wrap. -/
theorem startWord_toNat (hi : Byte) (a : BitVec 7) (d : Bool)
    (h : Config.startBase + (startOffset hi a d).toNat < 65536) :
    (BitVec.ofNat 16 Config.startBase + startOffset hi a d).toNat = 1000 + (startOffset hi a d).toNat := by
  have : Config.startBase = 1000 := rfl
  simp only [BitVec.toNat_add, BitVec.toNat_ofNat]
  omega

theorem startWord_inRow (hi : Byte) (a : BitVec 7) (d : Bool)
    (h : Config.startBase + (startOffset hi a d).toNat < 65536) :
    InRow.fits ⟨true, d.toNat, 1, 1000, 65535⟩ (BitVec.ofNat 16 Config.startBase + startOffset hi a d).toNat := by
  have hv := startOffset_toNat hi a d
  have hd : d.toNat < 2 := by cases d <;> decide
  have : Config.startBase = 1000 := rfl
  rw [startWord_toNat hi a d h]
  refine ⟨?_, ?_, ?_⟩
  · simp only [Nat.and_one_is_mod]; omega
  · simp
  · simp only; omega

theorem InRow.hex0 : InRow.Statement .hex0 := fun _ => ⟨rfl, by decide⟩
theorem InRow.hex1 : InRow.Statement .hex1 := fun _ => ⟨rfl, by decide⟩
theorem InRow.hex2 : InRow.Statement .hex2 := fun _ => ⟨rfl, by decide⟩
theorem InRow.hex3 : InRow.Statement .hex3 := fun _ => ⟨rfl, by decide⟩
theorem InRow.hex4 : InRow.Statement .hex4 := fun _ => ⟨rfl, by decide⟩
theorem InRow.hex5 : InRow.Statement .hex5 := fun _ => ⟨rfl, by decide⟩
theorem InRow.hex6 : InRow.Statement .hex6 := fun _ => ⟨rfl, by decide⟩
theorem InRow.hex7 : InRow.Statement .hex7 := fun _ => ⟨rfl, by decide⟩
theorem InRow.hex8 : InRow.Statement .hex8 := fun _ => ⟨rfl, by decide⟩
theorem InRow.hex9 : InRow.Statement .hex9 := fun _ => ⟨rfl, by decide⟩
theorem InRow.hexA : InRow.Statement .hexA := fun _ => ⟨rfl, by decide⟩
theorem InRow.hexB : InRow.Statement .hexB := fun _ => ⟨rfl, by decide⟩
theorem InRow.hexC : InRow.Statement .hexC := fun _ => ⟨rfl, by decide⟩
theorem InRow.hexD : InRow.Statement .hexD := fun _ => ⟨rfl, by decide⟩
theorem InRow.hexE : InRow.Statement .hexE := fun _ => ⟨rfl, by decide⟩
theorem InRow.hexF : InRow.Statement .hexF := fun _ => ⟨rfl, by decide⟩
theorem InRow.hexALc : InRow.Statement .hexALc := fun _ => ⟨rfl, by decide⟩
theorem InRow.hexBLc : InRow.Statement .hexBLc := fun _ => ⟨rfl, by decide⟩
theorem InRow.hexCLc : InRow.Statement .hexCLc := fun _ => ⟨rfl, by decide⟩
theorem InRow.hexDLc : InRow.Statement .hexDLc := fun _ => ⟨rfl, by decide⟩
theorem InRow.hexELc : InRow.Statement .hexELc := fun _ => ⟨rfl, by decide⟩
theorem InRow.hexFLc : InRow.Statement .hexFLc := fun _ => ⟨rfl, by decide⟩
theorem InRow.tSw : InRow.Statement .tSw := fun _ => ⟨rfl, by decide⟩
theorem InRow.tSr : InRow.Statement .tSr := fun _ => ⟨rfl, by decide⟩
theorem InRow.tData : InRow.Statement .tData := fun _ => ⟨rfl, by decide⟩
theorem InRow.tBlk : InRow.Statement .tBlk := fun _ => ⟨rfl, by decide⟩
theorem InRow.tPec : InRow.Statement .tPec := fun _ => ⟨rfl, by decide⟩
theorem InRow.aScan : InRow.Statement .aScan := fun _ => ⟨rfl, by decide⟩
theorem InRow.aSpeed : InRow.Statement .aSpeed := fun _ => ⟨rfl, by decide⟩
theorem InRow.aErr : InRow.Statement .aErr := fun _ => ⟨rfl, by decide⟩
theorem InRow.aBcast : InRow.Statement .aBcast := fun _ => ⟨rfl, by decide⟩
theorem InRow.aHelp : InRow.Statement .aHelp := fun _ => ⟨rfl, by decide⟩
theorem InRow.aHelpLc : InRow.Statement .aHelpLc := fun _ => ⟨rfl, by decide⟩
theorem InRow.aIdent : InRow.Statement .aIdent := fun _ => ⟨rfl, by decide⟩
theorem InRow.aIdentLc : InRow.Statement .aIdentLc := fun _ => ⟨rfl, by decide⟩
theorem InRow.aStd : InRow.Statement .aStd := fun _ => ⟨rfl, by decide⟩
theorem InRow.aStdLc : InRow.Statement .aStdLc := fun _ => ⟨rfl, by decide⟩
theorem InRow.aFast : InRow.Statement .aFast := fun _ => ⟨rfl, by decide⟩
theorem InRow.aFastLc : InRow.Statement .aFastLc := fun _ => ⟨rfl, by decide⟩
theorem InRow.aVslow : InRow.Statement .aVslow := fun _ => ⟨rfl, by decide⟩
theorem InRow.aVslowLc : InRow.Statement .aVslowLc := fun _ => ⟨rfl, by decide⟩
theorem InRow.eol : InRow.Statement .eol := fun _ => ⟨rfl, by decide⟩
theorem InRow.ignore (b : Byte) : InRow.Statement (.ignore b) := fun _ =>
  ⟨rfl, by simp [InRow.row], Nat.zero_le _, Nat.le_of_lt_succ b.isLt⟩
theorem InRow.startW (hi : Byte) (a : BitVec 7) : InRow.Statement (.startW hi a) := fun h =>
  ⟨rfl, startWord_inRow hi a false (of_decide_eq_true h)⟩
theorem InRow.startR (hi : Byte) (a : BitVec 7) : InRow.Statement (.startR hi a) := fun h =>
  ⟨rfl, startWord_inRow hi a true (of_decide_eq_true h)⟩
theorem InRow.readCount (n : Word) : InRow.Statement (.readCount n) := fun h =>
  ⟨rfl, by simp [InRow.row], Nat.zero_le _, Nat.le_of_lt_succ (of_decide_eq_true h)⟩
theorem InRow.dataWrite (v : Word) : InRow.Statement (.dataWrite v) := fun h =>
  ⟨rfl, by simp [InRow.row], Nat.zero_le _, Nat.le_of_lt_succ (of_decide_eq_true h)⟩

end Sys2Proof.Laws
end

