-- ==== Sys2Proof/Laws/Step.lean ====
section
/-!
SUPPORT. What one step can do, said once: `step_move` puts every step that answers a next state under one constructor
of `Move`, with the state it leads to written out. Invariants follow from it by cases.
-/

namespace Sys2Proof.Machine

/-! ### Decoding -/

/-- A received byte decodes to a character row. -/
theorem decodeChar_isChar (b : Byte) : (decodeChar b).charClass.isSome = true := by
  revert b; decide

/-- A word below 1000 is a read-count or a byte to write, by the read phase (R73). -/
theorem decodeWord_data {rp : Bool} {t : Word} (h : t.toNat < Config.startBase) :
    decodeWord rp t = if rp then .readCount t else .dataWrite t := by
  simp [decodeWord, h]

/-- A word of 1000 or above is a start token, whose address byte is `(t - 1000)[7:0]` (R71). -/
theorem decodeWord_start {rp : Bool} {t : Word} (h : ¬ t.toNat < Config.startBase) :
    ∃ hi a, (decodeWord rp t = .startW hi a ∧
        addrByte a false = (t - BitVec.ofNat _ Config.startBase).setWidth 8) ∨
      (decodeWord rp t = .startR hi a ∧
        addrByte a true = (t - BitVec.ofNat _ Config.startBase).setWidth 8) := by
  generalize ho : t - BitVec.ofNat _ Config.startBase = o
  have key : addrByte (o.extractLsb' 1 7) (o.getLsbD 0) = o.setWidth 8 := by
    have hb : (BitVec.ofBool (o.getLsbD 0)).toNat = o.toNat % 2 := by
      rw [BitVec.toNat_ofBool, BitVec.getLsbD, Nat.testBit_zero]
      have : o.toNat % 2 < 2 := Nat.mod_lt _ (by decide)
      interval_cases o.toNat % 2 <;> rfl
    apply BitVec.eq_of_toNat_eq
    unfold addrByte
    rw [BitVec.toNat_append, hb, ← Nat.shiftLeft_add_eq_or_of_lt (Nat.mod_lt _ (by decide)),
      BitVec.extractLsb'_toNat, BitVec.toNat_setWidth, Nat.shiftLeft_eq, Nat.shiftRight_eq_div_pow]
    omega
  refine ⟨o.extractLsb' 8 8, o.extractLsb' 1 7, ?_⟩
  cases hb : o.getLsbD 0
  · refine .inl ⟨?_, by rw [← key, hb]⟩
    simp [decodeWord, h, ho, hb, -BitVec.getLsbD_eq_getElem]
  · refine .inr ⟨?_, by rw [← key, hb]⟩
    simp [decodeWord, h, ho, hb, -BitVec.getLsbD_eq_getElem]

/-- The words the terminators build are words of the lexer (R70, R72). -/
theorem startToken_lexed (acc : Byte) (d : Bool) : lexedWord (startToken acc d) := by
  revert acc d; unfold lexedWord; decide

theorem dataToken_lexed (acc : Byte) {ofs : Word} (h : ofs.toNat ≤ 2) : lexedWord (dataToken acc ofs) := by
  have := acc.isLt
  refine .inl ?_
  simp only [dataToken, BitVec.toNat_add, BitVec.toNat_setWidth]
  omega

/-! ### The step as a relation -/

/-- The line state in which the block receives: `L0` starts the line first (R90). -/
inductive AtLine (s : State) : State → Prop
  | l0 : s.mode = .lex .l0 → AtLine s s.startLine
  | l1 : s.mode = .lex .l1 → AtLine s s

/-- The block received `b`: it was at `u`, below the capacity, and is now at `v`. -/
inductive Received (s : State) : State → Byte → State → Prop
  | mk {u b rest} : AtLine s u → u.tbLen ≠ Config.tbCap → u.input = b :: rest → Received s u b (u.rx b rest)

/-- A text's last byte went out, or it had none. -/
inductive Sent (s : State) : List Byte → State → Prop
  | none : Sent s [] s
  | last (b) : Sent s [b] (s.tx b)

/-- Where a walk's fetch leads (R141). -/
inductive Walked (token stop : Mode) (s : State) : State → Prop
  | stop : s.iReg.toNat = s.tbLen → Walked token stop s (s.goto stop)
  | token (w) : s.iReg.toNat ≠ s.tbLen → s.token s.iReg.toNat = some w →
      Walked token stop s { s with tReg := w, mode := token }

/-- Where the checked executor's fetch leads: a read-count is tested at once, one of 0 aborts with NBR (R141, R148). -/
inductive CWalked (s : State) : State → Prop
  | stop : s.iReg.toNat = s.tbLen → CWalked s (s.goto (.execChecked .stop))
  | token (w) : s.iReg.toNat ≠ s.tbLen → s.token s.iReg.toNat = some w →
      ¬ (s.rp = true ∧ w.toNat < Config.startBase) → CWalked s { s with tReg := w, mode := .execChecked .token }
  | count (w) : s.iReg.toNat ≠ s.tbLen → s.token s.iReg.toNat = some w → s.rp = true →
      w.toNat < Config.startBase → w ≠ 0 →
      CWalked s { s with tReg := w, nReg := w, kReg := 1, mode := .execChecked .readCall }
  | zero : s.iReg.toNat ≠ s.tbLen → s.token s.iReg.toNat = some 0 → s.rp = true →
      CWalked s (({ s with tReg := 0, nReg := 0 }.flag .nbr).goto (.execChecked .stop))

/-- Where the Broadcast executor's fetch leads: a read-count is tested at once, one of 0 is passed over with `RP <- 0`
(R171, R174). -/
inductive BWalked (s : State) : State → Prop
  | stop : s.iReg.toNat = s.tbLen → BWalked s (s.goto (.execBcast .stop))
  | token (w) : s.iReg.toNat ≠ s.tbLen → s.token s.iReg.toNat = some w →
      ¬ (s.rp = true ∧ w.toNat < Config.startBase) → BWalked s { s with tReg := w, mode := .execBcast .token }
  | count (w) : s.iReg.toNat ≠ s.tbLen → s.token s.iReg.toNat = some w → s.rp = true →
      w.toNat < Config.startBase → w ≠ 0 →
      BWalked s { s with tReg := w, nReg := w, kReg := 1, mode := .execBcast .readCall }
  | zero {t} : s.iReg.toNat ≠ s.tbLen → s.token s.iReg.toNat = some 0 → s.rp = true →
      Walked (.execBcast .token) (.execBcast .stop)
        { s with tReg := 0, nReg := 0, rp := false, iReg := s.iReg + 1 } t → BWalked s t

/-- The sub-states that send the bytes of a report or text. -/
def AdminAt.saying : AdminAt → Bool
  | .speed _ | .err _ | .bcast _ | .help _ | .ident _ | .speedReply _ _ => true
  | .scan _ | .errReset | .errFatal | .setSpeed _ => false

/-- What a received byte `b` does at `v` (R95 to R105, R115). -/
inductive Lexed (v : State) : Byte → State → Prop
  | digit (b d) : Lexed v b { v with acc := accPush v.acc d }
  | append (b w) : lexedWord w → v.tbLen < Config.tbCap → Lexed v b { v with tb := appendSlot v.tb w, acc := 0 }
  | ignore (b) : Lexed v b v
  | eol (b) : Lexed v b (v.goto (.lex .ld))
  | scan (b) : Lexed v b { v with admin := true, err := 0, aReg := 0, mode := scanMode .start }
  | command (b p) : (p.saying = true ∧ p.unsent ≠ some []) ∨ (∃ t, p = .setSpeed t) →
      Lexed v b { v with admin := true, mode := .adminop p }
  | silent (b) : Lexed v b { v with admin := true, mode := .lex .l1 }
  | star (m a) : m = .lex .l1 ∨ (∃ r, r ≠ [] ∧ m = .adminop (.bcast r)) →
      Lexed v 0x2A { v with admin := true, bcast := v.acc != 0, acc := a, mode := m }

/-- One step of an administrative command other than the scan (R119 to R128). -/
inductive AdminMove (s : State) : AdminAt → State → Prop
  | more {p q} (b) : p.saying = true → q.saying = true → q.unsent ≠ some [] → AdminMove s p ((s.tx b).goto (.adminop q))
  | said {p r u} : p.saying = true → p.unsent = some r → Sent s r u → AdminMove s p u.backToLine
  | clear {r u} : Sent s r u → u.lasterr ≠ 0 →
      AdminMove s (.err r) { u with lasterr := 0, mode := .adminop .errReset }
  | reset : s.resetAnswer = .ok → AdminMove s .errReset s.afterReset.backToLine
  | star {r u} : Sent s r u → AdminMove s (.bcast r) { u with acc := 0 }.backToLine
  | speed {t} (m) : m = .lex .l1 ∨ (∃ r, r ≠ [] ∧ m = .adminop (.speedReply t r)) →
      AdminMove s (.setSpeed t) ((s.setSpeed t).goto m)

/-- Where the scanner's loop leads (R190). -/
inductive Probed (s : State) : State → Prop
  | stop : s.aReg.toNat = Config.scanCount → Probed s (s.goto (scanMode .stop))
  | next : s.aReg.toNat ≠ Config.scanCount → Probed s (s.goto (scanMode .start))

/-- One step of the scanner, but for a failed reset (R187 to R192). -/
inductive ScanMove (s : State) : ScanAt → State → Prop
  | start : ScanMove s .start (s.busStart.goto (scanMode .startWait))
  | startDone : s.waitAnswer = .done → ScanMove s .startWait (s.afterWait.goto (scanMode .startStatus))
  | addrDone : s.waitAnswer = .done → ScanMove s .addrWait (s.afterWait.goto (scanMode .addrStatus))
  | expired {p} : p ∈ ([.startWait, .addrWait] : List ScanAt) → s.waitAnswer = .timeout →
      ScanMove s p (s.afterWait.goto (scanMode .timeout))
  | accepted : startAccepted s.statusAnswer = true →
      ScanMove s .startStatus (s.afterStatus.goto (scanMode .addr))
  | refused : startAccepted s.statusAnswer = false →
      ScanMove s .startStatus ((s.afterStatus.flag .sf).goto (scanMode .stop))
  | addr : ScanMove s .addr ((s.busWrite (scanByte s.aReg)).goto (scanMode .addrWait))
  | found : s.statusAnswer = Config.stAwAck →
      ScanMove s .addrStatus (s.afterStatus.goto (scanMode (.report (hexReport s.aReg))))
  | absent {t} : s.statusAnswer ≠ Config.stAwAck →
      Probed { s.afterStatus with aReg := s.aReg + 1 } t → ScanMove s .addrStatus t
  | more (b c r) : ScanMove s (.report (b :: c :: r)) ((s.tx b).goto (scanMode (.report (c :: r))))
  | reported {r u t} : Sent s r u → Probed { u with aReg := s.aReg + 1 } t → ScanMove s (.report r) t
  | reset : s.resetAnswer = .ok → ScanMove s .timeout ((s.afterReset.flag .bro).goto (scanMode .stop))
  | stop : ScanMove s .stop (s.busStop.goto (scanMode .release))
  | released : s.releaseAnswer = .done → ScanMove s .release s.afterRelease.foldErr.backToLine
  | held : s.releaseAnswer = .timeout → ScanMove s .release (s.afterRelease.goto (scanMode .releaseReset))
  | releaseReset : s.resetAnswer = .ok → ScanMove s .releaseReset (s.afterReset.flag .bro).foldErr.backToLine

/-- One step of the checked executor, but for a failed reset (R143 to R160). -/
inductive CheckedMove (s : State) : CheckedAt → State → Prop
  | start {p} : p.inToken = true → p ∉ ([.startWait, .startStatus, .addr, .addrWait, .addrStatus] : List CheckedAt) →
      ¬ s.tReg.toNat < Config.startBase → CheckedMove s p (s.busStart.goto (.execChecked .startWait))
  | startDone : s.waitAnswer = .done → CheckedMove s .startWait (s.afterWait.goto (.execChecked .startStatus))
  | accepted : startAccepted s.statusAnswer = true →
      ¬ s.tReg.toNat < Config.startBase → CheckedMove s .startStatus
        ({ s.afterStatus with abReg := (s.tReg - BitVec.ofNat _ Config.startBase).setWidth 8 }.goto
          (.execChecked .addr))
  | refused : startAccepted s.statusAnswer = false →
      CheckedMove s .startStatus ((s.afterStatus.flag .sf).goto (.execChecked .stop))
  | addr : CheckedMove s .addr ((s.busWrite s.abReg).goto (.execChecked .addrWait))
  | addrDone : s.waitAnswer = .done → CheckedMove s .addrWait (s.afterWait.goto (.execChecked .addrStatus))
  | addressed {t} : addrAccepted s.abReg s.statusAnswer = true →
      CWalked { s.afterStatus with rp := readPhase s.statusAnswer, iReg := s.iReg + 1 } t →
      CheckedMove s .addrStatus t
  | nacked : addrAccepted s.abReg s.statusAnswer = false →
      CheckedMove s .addrStatus ((s.afterStatus.flag .an).goto (.execChecked .stop))
  | expired {p} : p ∈ ([.startWait, .addrWait, .readWait, .writeWait] : List CheckedAt) →
      s.waitAnswer = .timeout → CheckedMove s p (s.afterWait.goto (.execChecked .timeout))
  | count {p} : p.inToken = true → (∀ r, p ≠ .readReport r) →
      p ∉ ([.readCall, .readWait, .readStatus, .readData] : List CheckedAt) →
      s.tReg.toNat < Config.startBase → s.rp = true → s.tReg ≠ 0 →
      CheckedMove s p { s with nReg := s.tReg, kReg := 1, mode := .execChecked .readCall }
  | zero {p} : p.inToken = true → (∀ r, p ≠ .readReport r) →
      p ∉ ([.readCall, .readWait, .readStatus, .readData] : List CheckedAt) → s.rp = true → s.tReg = 0 →
      CheckedMove s p (({ s with nReg := s.tReg }.flag .nbr).goto (.execChecked .stop))
  | nack : s.lastByte = true → CheckedMove s .readCall (s.busNack.goto (.execChecked .readWait))
  | ack : s.lastByte = false → CheckedMove s .readCall (s.busAck.goto (.execChecked .readWait))
  | readDone : s.waitAnswer = .done → CheckedMove s .readWait (s.afterWait.goto (.execChecked .readStatus))
  | good : s.statusAnswer = readExpected s.lastByte →
      CheckedMove s .readStatus (s.afterStatus.goto (.execChecked .readData))
  | bad : s.statusAnswer ≠ readExpected s.lastByte →
      CheckedMove s .readStatus ((s.afterStatus.flag (readFailure s.lastByte)).goto (.execChecked .stop))
  | data : CheckedMove s .readData
      (s.afterRead.goto (.execChecked (.readReport (readOutput s.lastByte s.dataAnswer))))
  | more (b c r) : CheckedMove s (.readReport (b :: c :: r))
      ((s.tx b).goto (.execChecked (.readReport (c :: r))))
  | again {r u} : Sent s r u → s.lastByte = false →
      CheckedMove s (.readReport r) { u with kReg := s.kReg + 1, mode := .execChecked .readCall }
  | readEnd {r u t} : Sent s r u → s.lastByte = true →
      CWalked { u with rp := false, iReg := s.iReg + 1 } t →
      CheckedMove s (.readReport r) t
  | write {p} : p.inToken = true → p ≠ .writeWait → s.tReg.toNat < Config.startBase → s.rp = false →
      CheckedMove s p ((s.busWrite (writeByte s.tReg)).goto (.execChecked .writeWait))
  | written {t} : s.waitAnswer = .done →
      CWalked { s.afterWait with iReg := s.iReg + 1 } t →
      CheckedMove s .writeWait t
  | reset : s.resetAnswer = .ok → CheckedMove s .timeout ((s.afterReset.flag .bro).goto (.execChecked .stop))
  | stop : CheckedMove s .stop (s.busStop.goto (.execChecked .release))
  | released : s.releaseAnswer = .done → CheckedMove s .release s.afterRelease.foldErr.startLine
  | held : s.releaseAnswer = .timeout →
      CheckedMove s .release (s.afterRelease.goto (.execChecked .releaseReset))
  | releaseReset : s.resetAnswer = .ok → CheckedMove s .releaseReset (s.afterReset.flag .bro).foldErr.startLine

/-- One step of the Broadcast executor, but for a failed reset (R172 to R177). -/
inductive BcastMove (s : State) : BcastAt → State → Prop
  | start {p} : p.inToken = true → p ∉ ([.startWait, .addr, .addrWait, .addrStatus] : List BcastAt) →
      ¬ s.tReg.toNat < Config.startBase → BcastMove s p (s.busStart.goto (.execBcast .startWait))
  | startDone : s.waitAnswer = .done → ¬ s.tReg.toNat < Config.startBase → BcastMove s .startWait
      ({ s.afterWait with abReg := (s.tReg - BitVec.ofNat _ Config.startBase).setWidth 8 }.goto (.execBcast .addr))
  | addr : BcastMove s .addr ((s.busWrite s.abReg).goto (.execBcast .addrWait))
  | addrDone : s.waitAnswer = .done → BcastMove s .addrWait (s.afterWait.goto (.execBcast .addrStatus))
  | addressed {t} : BWalked
        { s.afterStatus with rp := readPhase s.statusAnswer, iReg := s.iReg + 1 } t → BcastMove s .addrStatus t
  | expired {p} : p ∈ ([.startWait, .addrWait, .readWait, .writeWait] : List BcastAt) →
      s.waitAnswer = .timeout → BcastMove s p (s.afterWait.goto (.execBcast .timeout))
  | count {p} : p.inToken = true → (∀ r, p ≠ .readReport r) →
      p ∉ ([.readCall, .readWait, .readData] : List BcastAt) →
      s.tReg.toNat < Config.startBase → s.rp = true → s.tReg ≠ 0 →
      BcastMove s p { s with nReg := s.tReg, kReg := 1, mode := .execBcast .readCall }
  | zero {p t} : p.inToken = true → (∀ r, p ≠ .readReport r) →
      p ∉ ([.readCall, .readWait, .readData] : List BcastAt) → s.rp = true → s.tReg = 0 →
      Walked (.execBcast .token) (.execBcast .stop)
        { s with nReg := s.tReg, rp := false, iReg := s.iReg + 1 } t → BcastMove s p t
  | nack : s.lastByte = true → BcastMove s .readCall (s.busNack.goto (.execBcast .readWait))
  | ack : s.lastByte = false → BcastMove s .readCall (s.busAck.goto (.execBcast .readWait))
  | readDone : s.waitAnswer = .done → BcastMove s .readWait (s.afterWait.goto (.execBcast .readData))
  | data : BcastMove s .readData
      (s.afterRead.goto (.execBcast (.readReport (readOutput s.lastByte s.dataAnswer))))
  | more (b c r) : BcastMove s (.readReport (b :: c :: r)) ((s.tx b).goto (.execBcast (.readReport (c :: r))))
  | again {r u} : Sent s r u → s.lastByte = false →
      BcastMove s (.readReport r) { u with kReg := s.kReg + 1, mode := .execBcast .readCall }
  | readEnd {r u t} : Sent s r u → s.lastByte = true →
      BWalked { u with rp := false, iReg := s.iReg + 1 } t →
      BcastMove s (.readReport r) t
  | write {p} : p.inToken = true → p ≠ .writeWait → s.tReg.toNat < Config.startBase → s.rp = false →
      BcastMove s p ((s.busWrite (writeByte s.tReg)).goto (.execBcast .writeWait))
  | written {t} : s.waitAnswer = .done →
      BWalked { s.afterWait with iReg := s.iReg + 1 } t →
      BcastMove s .writeWait t
  | reset : s.resetAnswer = .ok → BcastMove s .timeout (s.afterReset.goto (.execBcast .stop))
  | stop : BcastMove s .stop (s.busStop.goto (.execBcast .release))
  | released : s.releaseAnswer = .done → BcastMove s .release s.afterRelease.startLine
  | held : s.releaseAnswer = .timeout → BcastMove s .release (s.afterRelease.goto (.execBcast .releaseReset))
  | releaseReset : s.resetAnswer = .ok → BcastMove s .releaseReset s.afterReset.startLine

/-- The modes whose next call is a bus reset (R153, R156, R176, R177, R191, R192, R120). -/
def resetModes : List Mode :=
  [.execChecked .timeout, .execChecked .releaseReset, .execBcast .timeout, .execBcast .releaseReset,
    scanMode .timeout, scanMode .releaseReset, .adminop .errReset]

/-- The sub-state a failed bus reset leads to, before the fatal entry (R227). -/
def Mode.failed : Mode → Mode
  | .execChecked _ => .execChecked .fatal
  | .execBcast _ => .execBcast .fatal
  | .adminop (.scan _) => scanMode .fatal
  | .adminop _ => .adminop .errFatal
  | m => m

/-- The modes whose next call is the fatal entry after a failed bus reset. -/
def fatalModes : List Mode := [.execChecked .fatal, .execBcast .fatal, scanMode .fatal, .adminop .errFatal]

/-- One step, by what it is. -/
inductive Move (s : State) : State → Prop
  | waiting {u} : AtLine s u → u.input = [] → u.tbLen ≠ Config.tbCap → Move s u
  | overflow : s.mode = .lex .l1 → s.tbLen = Config.tbCap → Move s (s.raiseFatal Config.fatalOverflow)
  | received {u b v t} : Received s u b v → Lexed v b t → Move s t
  | newLine : s.mode = .lex .ld → s.admin = true → Move s s.startLine
  | checkedWalk {t} : s.mode = .lex .ld → s.admin = false → s.bcast = false →
      CWalked { s with err := 0, iReg := 1, rp := false } t → Move s t
  | bcastWalk {t} : s.mode = .lex .ld → s.admin = false → s.bcast = true →
      BWalked { s with err := 0, iReg := 1, rp := false } t → Move s t
  | admin {p t} : s.mode = .adminop p → (∀ q, p ≠ .scan q) → AdminMove s p t → Move s t
  | scan {p t} : s.mode = .adminop (.scan p) → ScanMove s p t → Move s t
  | checked {p t} : s.mode = .execChecked p → CheckedMove s p t → Move s t
  | bcast {p t} : s.mode = .execBcast p → BcastMove s p t → Move s t
  | resetFailed : s.mode ∈ resetModes → s.resetAnswer = .fail →
      Move s (s.afterReset.goto s.mode.failed)
  | fatal : s.mode ∈ fatalModes → Move s (s.raiseFatal Config.fatalPeriph)

/-! ### The coming step, by mode -/

/-- What `step` does with what is fetched. -/
def Fetch.out : Fetch → Out
  | .halted code => .fault (.halted code)
  | .waiting t => .next t
  | .overflow t => .next (t.raiseFatal Config.fatalOverflow)
  | .run i t => exec i t

theorem step_eq (s : State) : step s = s.fetch.out := by
  unfold step Fetch.out
  cases s.fetch <;> rfl

theorem step_lex0 {s : State} (h : s.mode = .lex .l0) : step s = s.startLine.receive.out := by
  rw [step_eq]; simp [State.fetch, h]

theorem step_lex1 {s : State} (h : s.mode = .lex .l1) : step s = s.receive.out := by
  rw [step_eq]; simp [State.fetch, h]

theorem step_ld {s : State} (h : s.mode = .lex .ld) : step s = dispatchLine s := by
  rw [step_eq]; simp [State.fetch, h, Fetch.out, exec, execEol]

theorem step_halted {s : State} {c : Nat} (h : s.mode = .halted c) : step s = .fault (.halted c) := by
  rw [step_eq]; simp [State.fetch, h, Fetch.out]

theorem step_admin {s : State} {p : AdminAt} (h : s.mode = .adminop p) : step s = exec p.instr s := by
  rw [step_eq]; simp [State.fetch, h, Fetch.out]

theorem step_checked {s : State} {p : CheckedAt} (h : s.mode = .execChecked p) (hp : p.inToken = true) :
    step s = exec (decodeWord s.rp s.tReg) s := by
  rw [step_eq]; simp [State.fetch, h, hp, Fetch.out]

theorem step_checked_end {s : State} {p : CheckedAt} (h : s.mode = .execChecked p) (hp : p.inToken = false) :
    step s = exec .eol s := by
  rw [step_eq]; simp [State.fetch, h, hp, Fetch.out]

theorem step_bcast {s : State} {p : BcastAt} (h : s.mode = .execBcast p) (hp : p.inToken = true) :
    step s = exec (decodeWord s.rp s.tReg) s := by
  rw [step_eq]; simp [State.fetch, h, hp, Fetch.out]

theorem step_bcast_end {s : State} {p : BcastAt} (h : s.mode = .execBcast p) (hp : p.inToken = false) :
    step s = exec .eol s := by
  rw [step_eq]; simp [State.fetch, h, hp, Fetch.out]

/-- A token's step in the checked executor, by the token (R142). -/
theorem step_checked_token {s : State} {p : CheckedAt} (h : s.mode = .execChecked p) (hp : p.inToken = true) :
    step s =
      if s.tReg.toNat < Config.startBase then
        if s.rp then checkedRead s.tReg p s else checkedWrite s.tReg p s
      else checkedStart ((s.tReg - BitVec.ofNat _ Config.startBase).setWidth 8) p s := by
  rw [step_checked h hp]
  split
  · rename_i ht
    rw [decodeWord_data ht]
    cases s.rp <;> simp [exec, execReadCount, execDataWrite, h]
  · rename_i ht
    obtain ⟨hi, a, ⟨hd, ha⟩ | ⟨hd, ha⟩⟩ := decodeWord_start (rp := s.rp) ht
    · rw [hd, ← ha]; simp [exec, execStartW, startCommand, h]
    · rw [hd, ← ha]; simp [exec, execStartR, startCommand, h]

/-- A token's step in the Broadcast executor, by the token (R170). -/
theorem step_bcast_token {s : State} {p : BcastAt} (h : s.mode = .execBcast p) (hp : p.inToken = true) :
    step s =
      if s.tReg.toNat < Config.startBase then
        if s.rp then bcastRead s.tReg p s else bcastWrite s.tReg p s
      else bcastStart ((s.tReg - BitVec.ofNat _ Config.startBase).setWidth 8) p s := by
  rw [step_bcast h hp]
  split
  · rename_i ht
    rw [decodeWord_data ht]
    cases s.rp <;> simp [exec, execReadCount, execDataWrite, h]
  · rename_i ht
    obtain ⟨hi, a, ⟨hd, ha⟩ | ⟨hd, ha⟩⟩ := decodeWord_start (rp := s.rp) ht
    · rw [hd, ← ha]; simp [exec, execStartW, startCommand, h]
    · rw [hd, ← ha]; simp [exec, execStartR, startCommand, h]

/-! ### Every step is a move -/

theorem AtLine.mode {s u : State} (h : AtLine s u) : u.mode = .lex .l1 := by
  cases h with
  | l0 _ => rfl
  | l1 h => exact h

/-- A walk's fetch as a relation. -/
theorem walkFetch_walked {token stop : Mode} {s t : State} (h : walkFetch (standAt token) stop s = .next t) :
    Walked token stop s t := by
  rcases walkFetch_next h with ⟨hi, rfl⟩ | ⟨hi, w, hw, h⟩
  · exact .stop hi
  · cases h; exact .token w hi hw

/-- The checked executor's fetch as a relation. -/
theorem walkFetch_cwalked {s t : State} (h : walkFetch checkedEnter (.execChecked .stop) s = .next t) :
    CWalked s t := by
  rcases walkFetch_next h with ⟨hi, rfl⟩ | ⟨hi, w, hw, h⟩
  · exact .stop hi
  · rcases checkedEnter_cases { s with tReg := w } with ⟨hc, e⟩ | ⟨hr, h0, e⟩ | ⟨hr, hl, h0, e⟩ <;> rw [e] at h <;>
      cases h
    · exact .token w hi hw hc
    · obtain rfl : w = 0 := h0
      exact .zero hi hw hr
    · exact .count w hi hw hr hl h0

/-- The Broadcast executor's fetch as a relation. -/
theorem walkFetch_bwalked {s t : State} (h : walkFetch bcastEnter (.execBcast .stop) s = .next t) : BWalked s t := by
  rcases walkFetch_next h with ⟨hi, rfl⟩ | ⟨hi, w, hw, h⟩
  · exact .stop hi
  · rcases bcastEnter_cases { s with tReg := w } with ⟨hc, e⟩ | ⟨hr, h0, e⟩ | ⟨hr, hl, h0, e⟩ <;> rw [e] at h
    · cases h; exact .token w hi hw hc
    · obtain rfl : w = 0 := h0
      exact .zero hi hw hr (walkFetch_walked h)
    · cases h; exact .count w hi hw hr hl h0

/-- A text's step as a relation: its end, or its next byte. -/
theorem sendText_sent {p : List Byte → Mode} {rest : List Byte} {done : State → Out} {s t : State}
    (h : sendText p rest done s = .next t) :
    (∃ u, Sent s rest u ∧ done u = .next t) ∨ (∃ b c r, rest = b :: c :: r ∧ t = (s.tx b).goto (p (c :: r))) := by
  rcases sendText_next h with ⟨rfl, h⟩ | ⟨b, rfl, h⟩ | h
  · exact .inl ⟨_, .none, h⟩
  · exact .inl ⟨_, .last b, h⟩
  · exact .inr h

/-- The fields a text's end leaves alone. -/
theorem Sent.fields {s u : State} {r : List Byte} (h : Sent s r u) :
    u = { s with env := u.env, draws := u.draws, trace := u.trace } := by
  cases h <;> rfl

/-- The beginning of a text: its first byte stands ready, or there is none. -/
theorem beginText_cases (p : List Byte → Mode) (txt : List Byte) (done : State → State) (s : State) :
    (txt = [] ∧ beginText p txt done s = done s) ∨ (txt ≠ [] ∧ beginText p txt done s = s.goto (p txt)) := by
  cases txt with
  | nil => exact .inl ⟨rfl, rfl⟩
  | cons b r => exact .inr ⟨by simp, rfl⟩

theorem scanLoop_probed (s : State) : Probed s (scanLoop s) := by
  rcases scanLoop_cases s with ⟨h, e⟩ | ⟨h, e⟩ <;> rw [e]
  · exact .stop h
  · exact .next h

/-- The only byte whose instruction is A_BCAST is `*`. -/
theorem decodeChar_aBcast {b : Byte} (h : decodeChar b = .aBcast) : b = 0x2A := by
  revert h; revert b; decide

/-- A text command's beginning. -/
theorem beginSay_lexed {p : List Byte → AdminAt} {txt : List Byte} {v t : State} {b : Byte}
    (hp : ∀ r, (p r).saying = true ∧ (p r).unsent = some r) (h : beginSay p txt v = .next t) : Lexed v b t := by
  simp only [beginSay, beginAdmin] at h
  cases h
  rcases beginText_cases (fun r => .adminop (p r)) txt State.backToLine v.markAdmin with ⟨_, e⟩ | ⟨hn, e⟩ <;> rw [e]
  · exact .silent b
  · exact .command b _ (.inl ⟨(hp _).1, by rw [(hp _).2]; simpa using hn⟩)

/-- A received character, where its meaning answers a next state. -/
theorem exec_char_lexed {v t : State} {b : Byte} (hm : v.mode = .lex .l1) (h : exec (decodeChar b) v = .next t) :
    Lexed v b t := by
  have hc := decodeChar_isChar b
  cases hi : decodeChar b <;> rw [hi] at h hc
  case tSw => obtain ⟨hl, rfl⟩ := appendToken_next h; exact .append _ _ (startToken_lexed _ _) hl
  case tSr => obtain ⟨hl, rfl⟩ := appendToken_next h; exact .append _ _ (startToken_lexed _ _) hl
  case tData => obtain ⟨hl, rfl⟩ := appendToken_next h; exact .append _ _ (dataToken_lexed _ (by decide)) hl
  case tBlk => obtain ⟨hl, rfl⟩ := appendToken_next h; exact .append _ _ (dataToken_lexed _ (by decide)) hl
  case tPec => obtain ⟨hl, rfl⟩ := appendToken_next h; exact .append _ _ (dataToken_lexed _ (by decide)) hl
  case aScan =>
    simp only [exec, execAScan, hm, beginAdmin] at h; cases h
    rcases scanLoop_cases { v.markAdmin with err := 0, aReg := 0 } with ⟨e, _⟩ | ⟨_, e⟩
    · have e : (0 : Byte).toNat = Config.scanCount := e
      rcases scanCount_cases with hc | hc <;> rw [hc] at e <;> exact absurd e (by decide)
    · simp only [scanEntry]; rw [e]; exact .scan b
  case aSpeed => simp only [exec, execASpeed, hm] at h; exact beginSay_lexed (fun _ => ⟨rfl, rfl⟩) h
  case aErr => simp only [exec, execAErr, hm, beginAdmin] at h; cases h; exact .command b _ (.inl ⟨rfl, nofun⟩)
  case aBcast =>
    obtain rfl := decodeChar_aBcast hi
    simp only [exec, execABcast, hm, beginAdmin] at h; cases h
    rcases beginText_cases (fun r => .adminop (.bcast r)) (bcastMsg (v.markAdmin.acc != 0)) endBcast
      { v.markAdmin with bcast := v.markAdmin.acc != 0 } with ⟨_, e⟩ | ⟨hn, e⟩ <;> rw [e]
    · exact .star _ _ (.inl rfl)
    · exact .star _ _ (.inr ⟨_, hn, rfl⟩)
  case aHelp | aHelpLc =>
    simp only [exec, execAHelp, execAHelpLc, helpCommand, hm] at h; exact beginSay_lexed (fun _ => ⟨rfl, rfl⟩) h
  case aIdent | aIdentLc =>
    simp only [exec, execAIdent, execAIdentLc, identCommand, hm] at h; exact beginSay_lexed (fun _ => ⟨rfl, rfl⟩) h
  case aStd | aStdLc | aFast | aFastLc | aVslow | aVslowLc =>
    simp only [exec, execAStd, execAStdLc, execAFast, execAFastLc, execAVslow, execAVslowLc, speedCommand, hm,
      beginAdmin] at h
    cases h; exact .command b _ (.inr ⟨_, rfl⟩)
  case eol => simp only [exec, execEol, hm] at h; cases h; exact .eol b
  case ignore => cases h; exact .ignore b
  case startW | startR | readCount | dataWrite => simp [Instr.charClass] at hc
  all_goals exact (by cases h; exact .digit b _)

/-- What a receiving block does. -/
theorem receive_move {s u t : State} (hl : AtLine s u) (h : u.receive.out = .next t) : Move s t := by
  unfold State.receive at h
  split at h
  · rename_i hc; cases h
    cases hl with
    | l0 _ => simp [Config.tbCap] at hc
    | l1 hm => exact .overflow hm hc
  · rename_i hc
    split at h
    · rename_i hi; cases h; exact .waiting hl hi hc
    · rename_i b rest hi
      exact .received (.mk hl hc hi) (exec_char_lexed hl.mode h)

/-- A bus reset as a move. -/
theorem busReset_move {fatal : Mode} {ok : State → State} {s t : State} (hm : s.mode ∈ resetModes)
    (hf : s.mode.failed = fatal) (h : busReset fatal ok s = .next t) (hok : s.resetAnswer = .ok → Move s (ok s.afterReset)) : Move s t := by
  rcases busReset_next h with ⟨hr, rfl⟩ | ⟨hr, rfl⟩
  · exact hok hr
  · rw [← hf]; exact .resetFailed hm hr

theorem say_move {p : List Byte → AdminAt} {r : List Byte} {q : AdminAt} {s t : State}
    (hp : ∀ r, (p r).saying = true ∧ (p r).unsent = some r) (hq : q.saying = true ∧ q.unsent = some r) (h : say p r s = .next t) : AdminMove s q t := by
  rcases sendText_sent h with ⟨u, hu, h⟩ | ⟨b, c, r, rfl, rfl⟩
  · cases h; exact .said hq.1 hq.2 hu
  · exact .more b hq.1 (hp _).1 (by rw [(hp _).2]; simp)

theorem admin_move {p : AdminAt} {s t : State} (hm : s.mode = .adminop p) (h : exec p.instr s = .next t) :
    Move s t := by
  cases p with
  | scan p =>
    simp only [AdminAt.instr, exec, execAScan, hm] at h
    cases p with
    | start => cases h; exact .scan hm .start
    | startWait =>
      simp only [scanCall] at h
      rcases scanWait_next h with ⟨hw, rfl⟩ | ⟨hw, rfl⟩
      · exact .scan hm (.startDone hw)
      · exact .scan hm (.expired (by simp) hw)
    | startStatus =>
      simp only [scanCall] at h
      split at h <;> rename_i ha <;> cases h
      · exact .scan hm (.accepted ha)
      · exact .scan hm (.refused (by simpa using ha))
    | addr => cases h; exact .scan hm .addr
    | addrWait =>
      simp only [scanCall] at h
      rcases scanWait_next h with ⟨hw, rfl⟩ | ⟨hw, rfl⟩
      · exact .scan hm (.addrDone hw)
      · exact .scan hm (.expired (by simp) hw)
    | addrStatus =>
      simp only [scanCall] at h
      split at h <;> rename_i ha <;> cases h
      · exact .scan hm (.found ha)
      · exact .scan hm (.absent ha (scanLoop_probed _))
    | report r =>
      simp only [scanCall] at h
      rcases sendText_sent h with ⟨u, hu, h⟩ | ⟨b, c, r, rfl, rfl⟩
      · cases h
        refine .scan hm (.reported hu ?_)
        rw [show s.aReg = u.aReg by rw [hu.fields]]
        exact scanLoop_probed _
      · exact .scan hm (.more b c r)
    | timeout =>
      simp only [scanCall] at h
      exact busReset_move (by simp [hm, resetModes, scanMode]) (by rw [hm]; rfl) h (fun hr => .scan hm (.reset hr))
    | stop => cases h; exact .scan hm .stop
    | release =>
      simp only [scanCall] at h
      split at h <;> rename_i ha <;> cases h
      · exact .scan hm (.released ha)
      · exact .scan hm (.held ha)
    | releaseReset =>
      simp only [scanCall] at h
      exact busReset_move (by simp [hm, resetModes, scanMode]) (by rw [hm]; rfl) h (fun hr => .scan hm (.releaseReset hr))
    | fatal => cases h; exact .fatal (by simp [hm, fatalModes, scanMode])
  | speed r =>
    simp only [AdminAt.instr, exec, execASpeed, hm] at h
    exact .admin hm (by simp) (say_move (fun _ => ⟨rfl, rfl⟩) ⟨rfl, rfl⟩ h)
  | err r =>
    simp only [AdminAt.instr, exec, execAErr, hm] at h
    rcases sendText_sent h with ⟨u, hu, h⟩ | ⟨b, c, r, rfl, rfl⟩
    · unfold clearError at h
      split at h <;> rename_i he <;> cases h
      · exact .admin hm (by simp) (.said rfl rfl hu)
      · exact .admin hm (by simp) (.clear hu he)
    · exact .admin hm (by simp) (.more b rfl rfl (by simp [AdminAt.unsent]))
  | errReset =>
    simp only [AdminAt.instr, exec, execAErr, hm] at h
    exact busReset_move (by simp [hm, resetModes]) (by rw [hm]; rfl) h (fun hr => .admin hm (by simp) (.reset hr))
  | errFatal =>
    simp only [AdminAt.instr, exec, execAErr, hm] at h
    cases h; exact .fatal (by simp [hm, fatalModes])
  | bcast r =>
    simp only [AdminAt.instr, exec, execABcast, hm] at h
    rcases sendText_sent h with ⟨u, hu, h⟩ | ⟨b, c, r, rfl, rfl⟩
    · cases h; exact .admin hm (by simp) (.star hu)
    · exact .admin hm (by simp) (.more b rfl rfl (by simp [AdminAt.unsent]))
  | help r =>
    simp only [AdminAt.instr, exec, execAHelp, helpCommand, hm] at h
    exact .admin hm (by simp) (say_move (fun _ => ⟨rfl, rfl⟩) ⟨rfl, rfl⟩ h)
  | ident r =>
    simp only [AdminAt.instr, exec, execAIdent, identCommand, hm] at h
    exact .admin hm (by simp) (say_move (fun _ => ⟨rfl, rfl⟩) ⟨rfl, rfl⟩ h)
  | setSpeed u =>
    have key : speedCommand u s = .next t := by
      cases u <;> simpa only [AdminAt.instr, AdminAt.instr.speedInstr, exec, execAStd, execAFast, execAVslow] using h
    simp only [speedCommand, hm] at key
    cases key
    rcases beginText_cases (fun r => .adminop (.speedReply u r)) (Config.speedSetReply u) State.backToLine
      (s.setSpeed u) with ⟨_, e⟩ | ⟨hn, e⟩ <;> rw [e]
    · exact .admin hm (by simp) (.speed _ (.inl rfl))
    · exact .admin hm (by simp) (.speed _ (.inr ⟨_, hn, rfl⟩))
  | speedReply u r =>
    have key : speedCommand u s = .next t := by
      cases u <;> simpa only [AdminAt.instr, AdminAt.instr.speedInstr, exec, execAStd, execAFast, execAVslow] using h
    simp only [speedCommand, hm] at key
    exact .admin hm (by simp) (say_move (fun _ => ⟨rfl, rfl⟩) ⟨rfl, rfl⟩ key)

theorem checkedStart_move {p : CheckedAt} {s t : State} (hp : p.inToken = true) (ht : ¬ s.tReg.toNat < Config.startBase)
    (h : checkedStart ((s.tReg - BitVec.ofNat _ Config.startBase).setWidth 8) p s = .next t) :
    CheckedMove s p t := by
  cases p
  case startWait =>
    simp only [checkedStart] at h
    rcases checkedWait_next h with ⟨hw, h⟩ | ⟨hw, rfl⟩
    · cases h; exact .startDone hw
    · exact .expired (by simp) hw
  case startStatus =>
    simp only [checkedStart] at h
    split at h <;> rename_i ha
    · cases h; exact .accepted ha ht
    · cases h; exact .refused (by simpa using ha)
  case addr => cases h; exact .addr
  case addrWait =>
    simp only [checkedStart] at h
    rcases checkedWait_next h with ⟨hw, h⟩ | ⟨hw, rfl⟩
    · cases h; exact .addrDone hw
    · exact .expired (by simp) hw
  case addrStatus =>
    simp only [checkedStart] at h
    split at h <;> rename_i ha
    · exact .addressed ha (walkFetch_cwalked h)
    · cases h; exact .nacked (by simpa using ha)
  case timeout | stop | release | releaseReset | fatal => simp [CheckedAt.inToken] at hp
  all_goals cases h; exact .start hp (by simp) ht

theorem checkedRead_move {p : CheckedAt} {s t : State} (hp : p.inToken = true) (ht : s.tReg.toNat < Config.startBase)
    (hr : s.rp = true) (h : checkedRead s.tReg p s = .next t) : CheckedMove s p t := by
  cases p
  case readCall =>
    simp only [checkedRead] at h
    split at h <;> rename_i hl <;> cases h
    · exact .nack hl
    · exact .ack (by simpa using hl)
  case readWait =>
    simp only [checkedRead] at h
    rcases checkedWait_next h with ⟨hw, h⟩ | ⟨hw, rfl⟩
    · cases h; exact .readDone hw
    · exact .expired (by simp) hw
  case readStatus =>
    simp only [checkedRead] at h
    split at h <;> rename_i ha <;> cases h
    · exact .good ha
    · exact .bad ha
  case readData => cases h; exact .data
  case readReport r =>
    simp only [checkedRead] at h
    rcases sendText_sent h with ⟨u, hu, h⟩ | ⟨b, c, r, rfl, rfl⟩
    · have hl : u.lastByte = s.lastByte := by rw [hu.fields]; rfl
      have hk : u.kReg = s.kReg := by rw [hu.fields]
      have hi : u.iReg = s.iReg := by rw [hu.fields]
      simp only [hl] at h
      split at h <;> rename_i hl
      · refine .readEnd hu hl ?_
        rw [← hi]; exact walkFetch_cwalked h
      · cases h; rw [hk]; exact .again hu (by simpa using hl)
    · exact .more b c r
  case timeout | stop | release | releaseReset | fatal => simp [CheckedAt.inToken] at hp
  all_goals
    simp only [checkedRead, checkedCount] at h
    split at h <;> rename_i hz <;> cases h
    · exact .zero hp (by simp) (by simp) hr hz
    · exact .count hp (by simp) (by simp) ht hr hz

theorem checkedWrite_move {p : CheckedAt} {s t : State} (hp : p.inToken = true) (ht : s.tReg.toNat < Config.startBase)
    (hr : s.rp = false) (h : checkedWrite s.tReg p s = .next t) : CheckedMove s p t := by
  cases p
  case writeWait =>
    simp only [checkedWrite] at h
    rcases checkedWait_next h with ⟨hw, h⟩ | ⟨hw, rfl⟩
    · exact .written hw (walkFetch_cwalked h)
    · exact .expired (by simp) hw
  case timeout | stop | release | releaseReset | fatal => simp [CheckedAt.inToken] at hp
  all_goals cases h; exact .write hp (by simp) ht hr

theorem bcastStart_move {p : BcastAt} {s t : State} (hp : p.inToken = true) (ht : ¬ s.tReg.toNat < Config.startBase)
    (h : bcastStart ((s.tReg - BitVec.ofNat _ Config.startBase).setWidth 8) p s = .next t) : BcastMove s p t := by
  cases p
  case startWait =>
    simp only [bcastStart] at h
    rcases bcastWait_next h with ⟨hw, h⟩ | ⟨hw, rfl⟩
    · cases h; exact .startDone hw ht
    · exact .expired (by simp) hw
  case addr => cases h; exact .addr
  case addrWait =>
    simp only [bcastStart] at h
    rcases bcastWait_next h with ⟨hw, h⟩ | ⟨hw, rfl⟩
    · cases h; exact .addrDone hw
    · exact .expired (by simp) hw
  case addrStatus =>
    simp only [bcastStart] at h
    exact .addressed (walkFetch_bwalked h)
  case timeout | stop | release | releaseReset | fatal => simp [BcastAt.inToken] at hp
  all_goals cases h; exact .start hp (by simp) ht

theorem bcastRead_move {p : BcastAt} {s t : State} (hp : p.inToken = true) (ht : s.tReg.toNat < Config.startBase)
    (hr : s.rp = true) (h : bcastRead s.tReg p s = .next t) : BcastMove s p t := by
  cases p
  case readCall =>
    simp only [bcastRead] at h
    split at h <;> rename_i hl <;> cases h
    · exact .nack hl
    · exact .ack (by simpa using hl)
  case readWait =>
    simp only [bcastRead] at h
    rcases bcastWait_next h with ⟨hw, h⟩ | ⟨hw, rfl⟩
    · cases h; exact .readDone hw
    · exact .expired (by simp) hw
  case readData => cases h; exact .data
  case readReport r =>
    simp only [bcastRead] at h
    rcases sendText_sent h with ⟨u, hu, h⟩ | ⟨b, c, r, rfl, rfl⟩
    · have hl : u.lastByte = s.lastByte := by rw [hu.fields]; rfl
      have hk : u.kReg = s.kReg := by rw [hu.fields]
      have hi : u.iReg = s.iReg := by rw [hu.fields]
      simp only [hl] at h
      split at h <;> rename_i hl
      · refine .readEnd hu hl ?_
        rw [← hi]; exact walkFetch_bwalked h
      · cases h; rw [hk]; exact .again hu (by simpa using hl)
    · exact .more b c r
  case timeout | stop | release | releaseReset | fatal => simp [BcastAt.inToken] at hp
  all_goals
    simp only [bcastRead, bcastCount] at h
    split at h <;> rename_i hz
    · exact .zero hp (by simp) (by simp) hr hz (walkFetch_walked h)
    · cases h; exact .count hp (by simp) (by simp) ht hr hz

theorem bcastWrite_move {p : BcastAt} {s t : State} (hp : p.inToken = true) (ht : s.tReg.toNat < Config.startBase)
    (hr : s.rp = false) (h : bcastWrite s.tReg p s = .next t) : BcastMove s p t := by
  cases p
  case writeWait =>
    simp only [bcastWrite] at h
    rcases bcastWait_next h with ⟨hw, h⟩ | ⟨hw, rfl⟩
    · exact .written hw (walkFetch_bwalked h)
    · exact .expired (by simp) hw
  case timeout | stop | release | releaseReset | fatal => simp [BcastAt.inToken] at hp
  all_goals cases h; exact .write hp (by simp) ht hr

/-- Every step that answers a next state is one of the moves. -/
theorem step_move {s t : State} (h : step s = .next t) : Move s t := by
  cases hm : s.mode with
  | halted c => rw [step_halted hm] at h; cases h
  | lex p =>
    cases p with
    | l0 => rw [step_lex0 hm] at h; exact receive_move (.l0 hm) h
    | l1 => rw [step_lex1 hm] at h; exact receive_move (.l1 hm) h
    | ld =>
      rw [step_ld hm, dispatchLine] at h
      split at h
      · rename_i ha; cases h; exact .newLine hm ha
      · rename_i ha
        split at h <;> rename_i hb
        · exact .bcastWalk hm (by simpa using ha) hb (walkFetch_bwalked h)
        · exact .checkedWalk hm (by simpa using ha) (by simpa using hb) (walkFetch_cwalked h)
  | adminop p => rw [step_admin hm] at h; exact admin_move hm h
  | execChecked p =>
    cases hp : p.inToken with
    | true =>
      rw [step_checked_token hm hp] at h
      split at h <;> rename_i ht
      · split at h <;> rename_i hr
        · exact .checked hm (checkedRead_move hp ht hr h)
        · exact .checked hm (checkedWrite_move hp ht (by simpa using hr) h)
      · exact .checked hm (checkedStart_move hp ht h)
    | false =>
      rw [step_checked_end hm hp] at h
      cases p <;> first | (simp [CheckedAt.inToken] at hp; done) | skip
      all_goals simp only [exec, execEol, hm] at h
      · exact busReset_move (by simp [hm, resetModes]) (by rw [hm]; rfl) h (fun hr => .checked hm (.reset hr))
      · cases h; exact .checked hm .stop
      · simp only [checkedRelease] at h
        split at h <;> rename_i ha <;> cases h
        · exact .checked hm (.released ha)
        · exact .checked hm (.held ha)
      · exact busReset_move (by simp [hm, resetModes]) (by rw [hm]; rfl) h (fun hr => .checked hm (.releaseReset hr))
      · cases h; exact .fatal (by simp [hm, fatalModes])
  | execBcast p =>
    cases hp : p.inToken with
    | true =>
      rw [step_bcast_token hm hp] at h
      split at h <;> rename_i ht
      · split at h <;> rename_i hr
        · exact .bcast hm (bcastRead_move hp ht hr h)
        · exact .bcast hm (bcastWrite_move hp ht (by simpa using hr) h)
      · exact .bcast hm (bcastStart_move hp ht h)
    | false =>
      rw [step_bcast_end hm hp] at h
      cases p <;> first | (simp [BcastAt.inToken] at hp; done) | skip
      all_goals simp only [exec, execEol, hm] at h
      · exact busReset_move (by simp [hm, resetModes]) (by rw [hm]; rfl) h (fun hr => .bcast hm (.reset hr))
      · cases h; exact .bcast hm .stop
      · simp only [bcastRelease] at h
        split at h <;> rename_i ha <;> cases h
        · exact .bcast hm (.released ha)
        · exact .bcast hm (.held ha)
      · exact busReset_move (by simp [hm, resetModes]) (by rw [hm]; rfl) h (fun hr => .bcast hm (.releaseReset hr))
      · cases h; exact .fatal (by simp [hm, fatalModes])

end Sys2Proof.Machine
end

