-- ==== Sys2Proof/Laws/Run.lean ====
section
/-!
SUPPORT. Runs of several steps: how they compose, the induction along a run, and the run that sends a text.
-/

namespace Sys2Proof.Machine

theorem reaches_zero (s : State) : Reaches 0 s s := rfl

/-- A step and a run from where it leads. -/
theorem reaches_succ {k : Nat} {s u t : State} (h : step s = .next u) (hr : Reaches k u t) : Reaches (k + 1) s t := by
  simpa only [Reaches, steps, h] using hr

/-- The first step of a run. -/
theorem reaches_succ_inv {k : Nat} {s t : State} (h : Reaches (k + 1) s t) :
    ∃ u, step s = .next u ∧ Reaches k u t := by
  cases hs : step s with
  | next u => exact ⟨u, rfl, by simpa only [Reaches, steps, hs] using h⟩
  | fault f => simp [Reaches, steps, hs] at h
  | refused r => simp [Reaches, steps, hs] at h

/-- One run after another. -/
theorem reaches_trans {j k : Nat} {s u t : State} (h : Reaches j s u) (hr : Reaches k u t) :
    Reaches (j + k) s t := by
  induction j generalizing s with
  | zero => cases h; simpa using hr
  | succ j ih =>
    obtain ⟨v, hv, h⟩ := reaches_succ_inv h
    rw [Nat.succ_add]
    exact reaches_succ hv (ih h)

/-- What every step keeps holds along every run. -/
theorem reaches_invariant {P : State → Prop} (hP : ∀ s t, P s → step s = .next t → P t) {k : Nat} {s t : State}
    (h : Reaches k s t) (hs : P s) : P t := by
  induction k generalizing s with
  | zero => cases h; exact hs
  | succ k ih =>
    obtain ⟨u, hu, h⟩ := reaches_succ_inv h
    exact ih h (hP _ _ hs hu)

/-- The state after `txt` has been sent from `s`, but for the mode. -/
def State.afterText (s : State) : List Byte → State
  | [] => s
  | b :: r => (s.tx b).afterText r

theorem State.afterText_mode (s : State) (txt : List Byte) : (s.afterText txt).mode = s.mode := by
  induction txt generalizing s with
  | nil => rfl
  | cons b r ih => exact ih _

/-- What sending a text changes (R203, R204). -/
theorem State.afterText_eq (s : State) (txt : List Byte) :
    ∃ es, SendEvents txt es ∧
      s.afterText txt = { s with env := { s.env with sends := s.env.sends.drop txt.length },
                                 draws := s.draws + txt.length, trace := s.trace ++ es } := by
  induction txt generalizing s with
  | nil => exact ⟨[], ⟨[], rfl, rfl⟩, by simp [State.afterText]⟩
  | cons b r ih =>
    obtain ⟨es, ⟨answers, hl, rfl⟩, he⟩ := ih (s.tx b)
    refine ⟨.tx b s.sendAnswer :: List.zipWith Event.tx r answers, ⟨s.sendAnswer :: answers, by simp [hl], rfl⟩, ?_⟩
    rw [State.afterText, he]
    simp [State.tx, Nat.add_assoc, Nat.add_comm 1]

/-- Sending a text takes one step a byte, and then the text is done (R165, R203). -/
theorem text_run {p : List Byte → Mode} {done : State → Out}
    (hstep : ∀ (s : State) (r : List Byte), s.mode = p r → step s = sendText p r done s) (b : Byte) (r : List Byte)
    (s : State) (hm : s.mode = p (b :: r)) :
    ∃ m, steps (r.length + 1) s = done { s.afterText (b :: r) with mode := m } := by
  induction r generalizing b s with
  | nil =>
    refine ⟨s.mode, ?_⟩
    have : step s = done (s.tx b) := by rw [hstep s _ hm]; rfl
    show (match step s with | .next t => steps 0 t | .fault f => .fault f | .refused r => .refused r) = done (s.tx b)
    rw [this]
    cases done (s.tx b) <;> rfl
  | cons c r ih =>
    have hs : step s = .next ((s.tx b).goto (p (c :: r))) := by rw [hstep s _ hm]; rfl
    obtain ⟨m, h⟩ := ih c ((s.tx b).goto (p (c :: r))) rfl
    refine ⟨m, ?_⟩
    have hg : ∀ (u : State) (n : Mode) (l : List Byte),
        ({ (u.goto n).afterText l with mode := m } : State) = { u.afterText l with mode := m } := by
      intro u n l
      induction l generalizing u with
      | nil => rfl
      | cons x l ih => exact ih (u.tx x)
    have : steps (r.length + 1 + 1) s = steps (r.length + 1) ((s.tx b).goto (p (c :: r))) := by
      show (match step s with | .next t => steps (r.length + 1) t | .fault f => .fault f | .refused r => .refused r) = _
      rw [hs]
    rw [List.length_cons, this, h, hg]
    rfl

end Sys2Proof.Machine
end

