-- ==== Sys2Proof/Tests/Slice0.lean ====
section
/-!
SUPPORT. Tests. Expected values come from the spec: the codes of 30_encoding.md, the vectors of 95_test_vectors.md, the
examples of the rules. At the end, for every obligation with hypotheses, a witness: a state and operands that meet them
together, one for each clause.
-/

namespace Sys2Proof.Machine.Tests

/-! ### Helpers -/

/-- Something of the next state, if there is one. -/
def after {α : Type} (o : Out) (f : State → α) : Option α :=
  match o with
  | .next t => some (f t)
  | _ => none

/-- A block waiting at `L1` of a line. -/
def line : State := { State.reset with mode := .lex .l1 }

/-- A buffer holding the tokens of `50!A0$` (R108). -/
def twoTokens : Buffer := [(0, 3), (1, 1160), (2, 160)]

/-- A walk at slot `i` holding the word `t`, in mode `m`. -/
def walk (tb : Buffer) (i : BitVec 9) (t : Word) (rp : Bool) (m : Mode) : State :=
  { State.reset with tb := tb, iReg := i, tReg := t, rp := rp, mode := m }

/-- An environment with every kind of answer ready. -/
def env (w r : List WaitAnswer) (st d : List Byte) (rs : List ResetAnswer) : Env :=
  { waits := w, releases := r, statuses := st, datas := d, resets := rs, sends := [] }

/-! ### Decoding: the codes of R62, R64, R70, R72, R82 written out -/

theorem test_decode_digits :
    [0x30, 0x31, 0x32, 0x33, 0x34, 0x35, 0x36, 0x37, 0x38, 0x39].map decodeChar =
      [.hex0, .hex1, .hex2, .hex3, .hex4, .hex5, .hex6, .hex7, .hex8, .hex9] := by decide

theorem test_decode_hex_letters :
    [0x41, 0x42, 0x43, 0x44, 0x45, 0x46, 0x61, 0x62, 0x63, 0x64, 0x65, 0x66].map decodeChar =
      [.hexA, .hexB, .hexC, .hexD, .hexE, .hexF, .hexALc, .hexBLc, .hexCLc, .hexDLc, .hexELc, .hexFLc] := by decide

theorem test_decode_terminators :
    [0x21, 0x3F, 0x24, 0x26, 0x23].map decodeChar = [.tSw, .tSr, .tData, .tBlk, .tPec] := by decide

theorem test_decode_commands :
    [0x40, 0x25, 0x5E, 0x2A, 0x48, 0x68, 0x49, 0x69, 0x53, 0x73, 0x54, 0x74, 0x56, 0x76, 0x0A].map decodeChar =
      [.aScan, .aSpeed, .aErr, .aBcast, .aHelp, .aHelpLc, .aIdent, .aIdentLc, .aStd, .aStdLc, .aFast, .aFastLc,
       .aVslow, .aVslowLc, .eol] := by decide

/-- R67: CR, `G`, `g`, `J`, `Z`, NUL, 0xC1, 0xFF are ignored. -/
theorem test_decode_ignored :
    [0x0D, 0x47, 0x67, 0x4A, 0x5A, 0x00, 0xC1, 0xFF].map decodeChar =
      [.ignore 0x0D, .ignore 0x47, .ignore 0x67, .ignore 0x4A, .ignore 0x5A, .ignore 0x00, .ignore 0xC1,
       .ignore 0xFF] := by decide

/-- R82, L7: 1160 is a write start of address 0x50, 1255 a read start of 0x7F; R71: 1256 keeps its upper bits. -/
theorem test_decode_start_words :
    [1000, 1160, 1161, 1255, 1256].map (decodeWord false) =
      [.startW 0 0, .startW 0 0x50, .startR 0 0x50, .startR 0 0x7F, .startW 1 0] := by decide

/-- R73: a data token is a count or a byte to write, by the read phase; 999 is the last one (R69). -/
theorem test_decode_data_words :
    [decodeWord true 257, decodeWord false 257, decodeWord true 999, decodeWord false 0] =
      [.readCount 257, .dataWrite 257, .readCount 999, .dataWrite 0] := by decide

/-- The host's numbering: 8 bits a character, 16 a word, and the wide character rows (log 17). -/
theorem test_table_words :
    [decodeTableWord 8 0x21, decodeTableWord 16 1160, decodeTableWord 16 160, decodeTableWord 8 0x41,
      decodeTableWord 16 0x41, decodeTableWord 24 0x21] =
      [some .tSw, some (.startW 0 0x50), some (.dataWrite 160), some .hexA, some .hexA, none] := by decide

/-! ### WellFormed: an ill-formed term for each check -/

theorem test_wf_ignore_listed : (Instr.ignore 0x30).wellFormed = false := by decide
theorem test_wf_ignore : (Instr.ignore 0x0D).wellFormed = true := by decide
theorem test_wf_startW_wraps : (Instr.startW 0xFC 0x0C).wellFormed = false := by decide
theorem test_wf_startR_wraps : (Instr.startR 0xFF 0x7F).wellFormed = false := by decide
theorem test_wf_start_last : (Instr.startR 0xFC 0x0B).wellFormed = true := by decide
theorem test_wf_readCount_start : (Instr.readCount 1000).wellFormed = false := by decide
theorem test_wf_dataWrite_start : (Instr.dataWrite 1000).wellFormed = false := by decide

/-! ### The lexer (vectors L1 to L22) -/

/-- R95: from `ACC` = 0x05, `0` gives 0x50; L10: a third digit drops the first. -/
theorem test_digit :
    after (exec .hex0 { line with acc := 0x05 }) State.acc = some 0x50 ∧
      after (exec .hex3 { line with acc := 0x12 }) State.acc = some 0x23 := by decide

/-- Every digit, in either case, from an empty accumulator (R95). -/
theorem test_digits :
    [.hex0, .hex1, .hex2, .hex3, .hex4, .hex5, .hex6, .hex7, .hex8, .hex9, .hexA, .hexB, .hexC, .hexD, .hexE, .hexF,
      .hexALc, .hexBLc, .hexCLc, .hexDLc, .hexELc, .hexFLc].map (fun i => after (exec i line) State.acc) =
      [0, 1, 2, 3, 4, 5, 6, 7, 8, 9, 10, 11, 12, 13, 14, 15, 10, 11, 12, 13, 14, 15].map some := by decide

/-- S1, L4: `50!` stores 1160, `FF!` 1254. -/
theorem test_tSw :
    after (exec .tSw { line with acc := 0x50 }) State.tb = some [(0, 2), (1, 1160)] ∧
      after (exec .tSw { line with acc := 0xFF }) State.tb = some [(0, 2), (1, 1254)] := by decide

/-- L6, L7: `50?` stores 1161, `FF?` 1255. -/
theorem test_tSr :
    after (exec .tSr { line with acc := 0x50 }) State.tb = some [(0, 2), (1, 1161)] ∧
      after (exec .tSr { line with acc := 0xFF }) State.tb = some [(0, 2), (1, 1255)] := by decide

/-- S2, S4: `A0$` stores 160 after a token already there, and the accumulator restarts. -/
theorem test_tData :
    after (exec .tData { line with acc := 0xA0, tb := [(0, 2), (1, 1160)] }) (fun t => (t.tb, t.acc)) =
      some (twoTokens, 0) := by decide

/-- L11: `FF&` stores 256. -/
theorem test_tBlk : after (exec .tBlk { line with acc := 0xFF }) State.tb = some [(0, 2), (1, 256)] := by decide

/-- L14: `FF#` stores 257. -/
theorem test_tPec : after (exec .tPec { line with acc := 0xFF }) State.tb = some [(0, 2), (1, 257)] := by decide

/-- L20: a space between two digits changes nothing. -/
theorem test_ignore : exec (.ignore 0x20) { line with acc := 5 } = .next { line with acc := 5 } := rfl

/-- R103, P5: with 259 tokens the block halts and reads no byte. -/
theorem test_overflow :
    step { line with tb := [(0, 260)], input := [0x0A] } =
      .next ({ line with tb := [(0, 260)], input := [0x0A] }.raiseFatal Config.fatalOverflow) := rfl

/-- R107, R161: a line with no token goes to the cleanup of the executor. -/
theorem test_empty_line :
    after (exec .eol { line with mode := .lex .ld }) State.mode = some (.execChecked .stop) ∧
      after (exec .eol { line with mode := .lex .ld, bcast := true }) State.mode = some (.execBcast .stop) := by decide

/-- R106, R109: a line with an administrative command runs no executor. -/
theorem test_admin_line :
    after (exec .eol { line with mode := .lex .ld, admin := true, tb := twoTokens }) (fun t => (t.mode, t.tbLen)) =
      some (.lex .l1, 1) := by decide

/-! ### Administrative commands (vectors A2 to A12) -/

/-- A2, A3, A4: the tier goes to the PAL first. -/
theorem test_speed_commands :
    [.aStd, .aStdLc, .aFast, .aFastLc, .aVslow, .aVslowLc].map (fun i => after (exec i line) State.mode) =
      [.std, .std, .fast, .fast, .vslow, .vslow].map (fun t => some (.adminop (.setSpeed t))) := by decide

/-- A6: `LASTERR` = 0x22 is reported as `2`, `2`, then the terminator. -/
theorem test_aErr :
    after (exec .aErr { line with lasterr := 0x22 }) State.mode = some (.adminop (.err [0x32, 0x32, Config.hexTerm])) :=
  rfl

/-- A8: after the report `LASTERR` is 0 and a bus reset is due. -/
theorem test_aErr_clear :
    after (exec .aErr { line with lasterr := 0x02, mode := .adminop (.err [0]) }) (fun t => (t.lasterr, t.mode)) =
      some (0, .adminop .errReset) := rfl

/-- A1: the speed report begins with a digit. -/
theorem test_aSpeed :
    after (exec .aSpeed line) (fun t => (t.admin, t.mode)) =
      some (true, .adminop (.speed (Config.speedReport .std))) := rfl

/-- A9, A10: the flag is set from the accumulator; A11: and the accumulator is consumed. -/
theorem test_aBcast :
    ∃ t, exec .aBcast { line with acc := 1 } = .next t ∧ t.bcast = true ∧ t.admin = true := by
  refine ⟨_, rfl, ?_, ?_⟩ <;>
    rcases beginText_cases (fun r => .adminop (.bcast r)) (bcastMsg true) endBcast
      { ({ line with acc := 1 } : State).markAdmin with bcast := true } with ⟨_, e⟩ | ⟨_, e⟩ <;>
    exact (congrArg _ e).trans rfl

/-- A14, A15: `h` and `i` mark the line; `H` and `I` do the same. -/
theorem test_text_commands :
    (∃ t, exec .aHelpLc line = .next t ∧ t.admin = true) ∧ exec .aHelp line = exec .aHelpLc line ∧
      (∃ t, exec .aIdentLc line = .next t ∧ t.admin = true) ∧ exec .aIdent line = exec .aIdentLc line := by
  refine ⟨⟨_, rfl, ?_⟩, rfl, ⟨_, rfl, ?_⟩, rfl⟩
  · rcases beginText_cases (fun r => .adminop (.help r)) Config.helpText State.backToLine line.markAdmin with
      ⟨_, e⟩ | ⟨_, e⟩ <;> exact (congrArg _ e).trans rfl
  · rcases beginText_cases (fun r => .adminop (.ident r)) Config.identText State.backToLine line.markAdmin with
      ⟨_, e⟩ | ⟨_, e⟩ <;> exact (congrArg _ e).trans rfl

/-! ### The scanner (SC1, SC5, SC8) -/

/-- R188: address 0x42 is sent as 0x84, address 128 as 0x00. -/
theorem test_scan_address :
    (after (exec .aScan { line with aReg := 0x42, mode := scanMode .addr }) (fun t => t.trace.getLast?)) =
        some (some (.write 0x84)) ∧
      scanByte 128 = 0 := by decide

/-- SC1, SC8: only 0x18 is reported. -/
theorem test_scan_status :
    after (exec .aScan { line with aReg := 0x42, mode := scanMode .addrStatus, env := env [] [] [0x18] [] [] })
        State.mode = some (scanMode (.report [0x34, 0x32, Config.hexTerm])) ∧
      ∃ t, exec .aScan { line with aReg := 0x20, mode := scanMode .addrStatus, env := env [] [] [0x40] [] [] } =
        .next t ∧ t.aReg = 0x21 ∧ t.err = 0 := by
  refine ⟨rfl, _, rfl, ?_, ?_⟩ <;> (simp only [scanAdvance, scanLoop]; split <;> rfl)

/-! ### The checked executor (X1 to X21) -/

/-- X1: the start of `50!` is followed by its wait; the address byte is 0xA0. -/
theorem test_startW :
    after (exec (.startW 0 0x50) (walk twoTokens 1 1160 false (.execChecked .token))) State.trace = some [.start] ∧
      after (exec (.startW 0 0x50)
        { walk twoTokens 1 1160 false (.execChecked .startStatus) with env := env [] [] [0x08] [] [] })
        (fun t => (t.mode, t.abReg)) = some (.execChecked .addr, 0xA0) := by decide

/-- X20: 0x40 on a write address fails; X6: 0x18 on a read address is accepted and leaves the read phase off. -/
theorem test_address_status :
    addrAccepted 0xA0 0x40 = false ∧
      after (exec (.startR 0 0x50)
        { walk [(0, 2), (1, 1161)] 1 1161 false (.execChecked .addrStatus) with
          abReg := 0xA1, env := env [] [] [0x18] [] [] }) (fun t => (t.mode, t.rp)) =
        some (.execChecked .stop, false) := by decide

/-- X5: a count of 0 after a read address goes to the cleanup in the step of the address status, with no event of
its own. -/
theorem test_readCount_zero :
    after (step
      { walk [(0, 3), (1, 1161), (2, 0)] 1 1161 false (.execChecked .addrStatus) with
        abReg := 0xA1, env := env [] [] [0x40] [] [] })
      (fun t => (t.mode, t.nReg, t.trace, t.err)) =
      some (.execChecked .stop, 0, [.status 0x40], 0 ||| errMask .nbr) := rfl

/-- X8: the last byte of a count is read with a NACK, and 0x50 fails there. -/
theorem test_readCount_last :
    after (exec (.readCount 1)
        { walk [(0, 3), (1, 1161), (2, 1)] 2 1 true (.execChecked .readCall) with nReg := 1, kReg := 1 })
        State.trace = some [.nack] ∧
      after (exec (.readCount 1)
        { walk [(0, 3), (1, 1161), (2, 1)] 2 1 true (.execChecked .readStatus) with
          nReg := 1, kReg := 1, env := env [] [] [0x50] [] [] }) State.mode = some (.execChecked .stop) := by decide

/-- X16: 257 is written as 0x01, and no status is read after the wait. -/
theorem test_dataWrite :
    after (exec (.dataWrite 257) (walk [(0, 2), (1, 257)] 1 257 false (.execChecked .token))) State.trace =
        some [.write 0x01] ∧
      after (exec (.dataWrite 257)
        { walk [(0, 2), (1, 257)] 1 257 false (.execChecked .writeWait) with env := env [.done] [] [] [] [] })
        State.mode = some (.execChecked .stop) := by decide

/-- X9, X10: an expired wait goes to the reset, an expired release too. -/
theorem test_checked_timeouts :
    after (step { walk twoTokens 2 160 false (.execChecked .writeWait) with env := env [.timeout] [] [] [] [] })
        State.mode = some (.execChecked .timeout) ∧
      after (step { walk twoTokens 2 160 false (.execChecked .release) with env := env [] [.timeout] [] [] [] })
        State.mode = some (.execChecked .releaseReset) := by decide

/-! ### The Broadcast executor (B1 to B7) -/

/-- B1: a NACKed address does not stop the walk. -/
theorem test_bcast_start :
    after (exec (.startW 0 0x51)
      { walk [(0, 3), (1, 1162), (2, 0)] 1 1162 false (.execBcast .addrStatus) with env := env [] [] [0x20] [] [] })
      (fun t => (t.mode, t.tReg, t.rp)) = some (.execBcast .token, 0, false) := by decide

/-- B3: a count of 0 after a read address is passed over in the step of the address status; the write of 0xA5 is
next. -/
theorem test_bcast_zero_count :
    after (step
      { walk [(0, 4), (1, 1161), (2, 0), (3, 0xA5)] 1 1161 false (.execBcast .addrStatus) with
        env := env [] [] [0x40] [] [] })
      (fun t => (t.mode, t.tReg, t.rp, t.trace)) = some (.execBcast .token, 0xA5, false, [.status 0x40]) := by decide

/-- B6: after a reset that fails the next call is the fatal entry, with no stop. -/
theorem test_bcast_reset_fails :
    after (steps 2 { walk [(0, 2), (1, 1160)] 1 1160 false (.execBcast .timeout) with env := env [] [] [] [] [.fail] })
      (fun t => (t.mode, t.trace)) =
      some (.halted Config.fatalPeriph, [.reset .fail, .fatal Config.fatalPeriph]) := rfl

/-! ### The reporter (R1 to R6) -/

theorem test_hex_reports :
    [0x00, 0xAB, 0x7E, 0xFF, 0x0A, 0x42].map hexReport =
      [[0x30, 0x30, Config.hexTerm], [0x41, 0x42, Config.hexTerm], [0x37, 0x45, Config.hexTerm],
       [0x46, 0x46, Config.hexTerm], [0x30, 0x41, Config.hexTerm], [0x34, 0x32, Config.hexTerm]] := rfl

/-! ### The host's interface -/

/-- Right after reset, the placed byte or word is what the next step runs. -/
theorem test_withFetchWord :
    (State.reset.withFetchWord 8 0x35).fetch = .run .hex5 ({ State.reset with input := [0x35] }.startLine.rx 0x35 []) ∧
      after (step (State.reset.withFetchWord 16 1160)) State.trace = some [.start] ∧
      after (step (State.reset.withFetchWord 16 160)) State.trace = some [.write 0xA0] ∧
      after (step (State.reset.withFetchWord 16 0x41)) State.acc = some 10 := by decide

/-! ### Witnesses: states and operands that meet the obligations' hypotheses -/

/-- The last start token that does not wrap, and the last data token. -/
theorem witness_DecodeOfEncodeIsTheInstruction :
    (Instr.startR 0xFC 0x0B).wellFormed = true ∧ (Instr.startR 0xFC 0x0B).fits false = true ∧
      (Instr.dataWrite 999).wellFormed = true ∧ (Instr.dataWrite 999).fits false = true ∧
      (Instr.readCount 999).wellFormed = true ∧ (Instr.readCount 999).fits true = true := by decide

theorem witness_AddressByteIsTheLowByteOfTheOffset : 1000 ≤ (1000 : Word).toNat ∧ 1000 ≤ (65535 : Word).toNat := by
  decide

theorem witness_StepRunsTheDecodedInstruction :
    (({ line with input := [0x21] } : State).mode = .lex .l1 ∧ line.tbLen ≠ Config.tbCap) ∧
      State.reset.mode = .lex .l0 ∧ ({ line with mode := .lex .ld } : State).mode = .lex .ld ∧
      ({ line with mode := .adminop .errReset } : State).mode = .adminop .errReset ∧
      (walk twoTokens 1 1160 false (.execChecked .token)).mode = .execChecked .token ∧
      (walk twoTokens 1 1160 false (.execBcast .stop)).mode = .execBcast .stop := by decide

theorem witness_WaitingForInputChangesNothing :
    line.mode = .lex .l1 ∧ line.tbLen ≠ Config.tbCap ∧ line.input = [] := by decide

/-- 260 halts, 259 takes the byte. -/
theorem witness_OverflowHaltsBeforeTheNextByte :
    (({ line with tb := [(0, 260)] } : State).mode = .lex .l1 ∧ ({ line with tb := [(0, 260)] } : State).tbLen = 260) ∧
      ({ line with tb := [(0, 259)], input := [0x24] } : State).tbLen < 260 ∧
      ∃ t, step { line with tb := [(0, 259)], input := [0x24] } = .next t :=
  ⟨by decide, by decide, _, rfl⟩

theorem witness_HaltedIsFinal : ({ line with mode := .halted 1 } : State).mode = .halted 1 := rfl

/-- An empty line, and the last slot of the buffer. -/
theorem witness_StartTerminatorsStoreTheirToken :
    (1 ≤ line.tbLen ∧ line.tbLen < 260) ∧
      ({ line with tb := [(0, 259)] } : State).tbLen = 259 ∧ ({ line with tb := [(0, 259)] } : State).mode = .lex .l1 := by
  decide

theorem witness_DataTerminatorsStoreTheirToken :
    (1 ≤ line.tbLen ∧ line.tbLen < 260) ∧
      ({ line with tb := [(0, 259)] } : State).tbLen = 259 ∧ ({ line with tb := [(0, 259)] } : State).mode = .lex .l1 := by
  decide

theorem witness_AppendPastTheLastSlotFaults : 260 ≤ ({ line with tb := [(0, 260)] } : State).tbLen := by decide

theorem witness_EndOfLineGoesToDispatch : line.mode = .lex .l1 := rfl

theorem witness_DispatchSelectsTheExecutor :
    (({ line with mode := .lex .ld, admin := true } : State).mode = .lex .ld ∧
        ({ line with mode := .lex .ld, admin := true } : State).admin = true) ∧
      (({ line with mode := .lex .ld } : State).admin = false ∧ ({ line with mode := .lex .ld } : State).tbLen = 1) ∧
      (1 < ({ line with mode := .lex .ld, tb := twoTokens } : State).tbLen ∧ readSlot twoTokens 1 = some 1160) := by
  decide

/-- The bytes of `50!A0$7` before LF (S4). -/
theorem witness_LexerStoresTheTokensOfTheLine :
    ∃ (s : State) (l rest : List Byte), s.mode = .lex .l1 ∧ 1 ≤ s.tbLen ∧ s.input = l ++ rest ∧
      (∀ b ∈ l, busByte b = true) ∧ lineTokens s.acc l = [1160, 160] ∧
      s.tbLen + (lineTokens s.acc l).length < 260 :=
  ⟨{ line with input := [0x35, 0x30, 0x21, 0x41, 0x30, 0x24, 0x37, 0x0A] },
    [0x35, 0x30, 0x21, 0x41, 0x30, 0x24, 0x37], [0x0A], rfl, by decide, rfl, by decide, by decide, by decide⟩

theorem witness_TextCommandsSendTheirText : line.mode = .lex .l1 := rfl

/-- A clear error, and a recorded one with either outcome of the reset. -/
theorem witness_ErrorCommandReportsClearsAndResets :
    line.mode = .lex .l1 ∧ line.lasterr = 0 ∧ ({ line with lasterr := 0x22 } : State).lasterr ≠ 0 ∧
      ({ line with lasterr := 0x22, env := env [] [] [] [] [.ok] } : State).env.resets = .ok :: [] ∧
      ({ line with lasterr := 0x22, env := env [] [] [] [] [.fail] } : State).env.resets = .fail :: [] := by decide

theorem witness_BroadcastCommandSetsTheFlag :
    line.mode = .lex .l1 ∧ ∃ msg, msg = (if line.acc = 0 then Config.bcastOffMsg else Config.bcastOnMsg) := ⟨rfl, _, rfl⟩

theorem witness_SpeedCommandsSelectTheTier : line.mode = .lex .l1 := rfl

/-- SC1: every wait done, the first start 0x08 and the later ones 0x10, 0x10 and 0x42 acknowledging. -/
theorem witness_SweepReportsTheAcknowledgingAddresses :
    ∃ (s : State) (g f : Nat → Byte) (ws rs : List WaitAnswer) (ss : List Byte),
      s.mode = .lex .l1 ∧ (∀ a, g a = 0x08 ∨ g a = 0x10) ∧
      s.env.waits = List.replicate (2 * Config.scanCount) .done ++ ws ∧
      s.env.statuses = (List.range Config.scanCount).flatMap (fun a => [g a, f a]) ++ ss ∧
      s.env.releases = .done :: rs ∧ f 0x42 = Config.stAwAck ∧ f 0x43 ≠ Config.stAwAck := by
  let g : Nat → Byte := fun a => if a = 0 then 0x08 else 0x10
  let f : Nat → Byte := fun a => if a = 0x10 ∨ a = 0x42 then 0x18 else 0x20
  let e := env (List.replicate (2 * Config.scanCount) .done ++ []) [.done]
    ((List.range Config.scanCount).flatMap (fun a => [g a, f a]) ++ []) [] []
  refine ⟨{ line with env := e }, g, f, [], [], [], rfl, ?_, rfl, rfl, rfl, by decide, by decide⟩
  intro a
  by_cases h : a = 0 <;> simp [g, h]

/-- SC3: start status 0x00. -/
theorem witness_RefusedStartEndsTheSweep :
    ∃ s : State, s.mode = .adminop (.scan .start) ∧ s.env.waits = .done :: [] ∧ s.env.statuses = 0x00 :: [] ∧
      s.env.releases = .done :: [] ∧ (0x00 : Byte) ≠ 0x08 ∧ (0x00 : Byte) ≠ 0x10 :=
  ⟨{ line with mode := scanMode .start, env := env [.done] [.done] [0x00] [] [] }, rfl, rfl, rfl, rfl, by decide,
    by decide⟩

/-- SC4 and SC6. -/
theorem witness_ExpiredWaitEndsTheSweep :
    (∃ s : State, (s.mode = .adminop (.scan .startWait) ∨ s.mode = .adminop (.scan .addrWait)) ∧
      s.env.waits = .timeout :: [] ∧ s.env.resets = .ok :: [] ∧ s.env.releases = .done :: []) ∧
    ∃ s : State, s.mode = .adminop (.scan .stop) ∧ s.env.releases = .timeout :: [] ∧ s.env.resets = .ok :: [] :=
  ⟨⟨{ line with mode := scanMode .addrWait, env := env [.timeout] [.done] [] [] [.ok] }, .inr rfl, rfl, rfl, rfl⟩,
    { line with mode := scanMode .stop, env := env [] [.timeout] [] [] [.ok] }, rfl, rfl, rfl⟩

/-- A start token followed by another one, and the last one of a line. -/
theorem witness_WalkGoesOn :
    WalkGoesOn (walk twoTokens 1 1160 false (.execChecked .token)) ∧
      WalkGoesOn (walk [(0, 2), (1, 1161)] 1 1161 false (.execChecked .token)) := by
  refine ⟨⟨by decide, by decide, fun _ => ⟨160, by decide⟩⟩, by decide, by decide, fun h => ?_⟩
  exact absurd h (by decide)

/-- X1; and a read address before a count (X4), before a count of 0 (X5), and at the end of the line. -/
theorem witness_CheckedStartTokenAddressesTheFollower :
    (∃ s : State, s.mode = .execChecked .token ∧ decodeWord s.rp s.tReg = .startW 0 0x50 ∧ WalkGoesOn s ∧
      s.env.waits = .done :: .done :: [] ∧ s.env.statuses = 0x08 :: 0x18 :: []) ∧
    ∀ tb ∈ ([[(0, 3), (1, 1161), (2, 2)], [(0, 3), (1, 1161), (2, 0)], [(0, 2), (1, 1161)]] : List Buffer),
      ∃ s : State, s.tb = tb ∧ s.mode = .execChecked .token ∧ decodeWord s.rp s.tReg = .startR 0 0x50 ∧
        WalkGoesOn s ∧ s.env.waits = .done :: .done :: [] ∧ s.env.statuses = 0x10 :: 0x40 :: [] := by
  refine ⟨⟨{ walk twoTokens 1 1160 false (.execChecked .token) with
      env := env [.done, .done] [] [0x08, 0x18] [] [] }, rfl, by decide, witness_WalkGoesOn.1, rfl, rfl⟩,
    fun tb h => ⟨{ walk tb 1 1161 false (.execChecked .token) with
      env := env [.done, .done] [] [0x10, 0x40] [] [] }, rfl, rfl,
      (by decide : decodeWord false 1161 = .startR 0 0x50), ?_, rfl, rfl⟩⟩
  simp only [List.mem_cons, List.not_mem_nil, or_false] at h
  rcases h with rfl | rfl | rfl
  · exact ⟨by decide, by decide, fun _ => ⟨2, by decide⟩⟩
  · exact ⟨by decide, by decide, fun _ => ⟨0, by decide⟩⟩
  · exact ⟨by decide, by decide, fun h => absurd h (by decide)⟩

/-- X3. -/
theorem witness_CheckedStartRefusedFlagsStartFail :
    ∃ s : State, s.mode = .execChecked .token ∧ decodeWord s.rp s.tReg = .startW 0 0x50 ∧
      s.env.waits = .done :: [] ∧ s.env.statuses = 0x38 :: [] ∧ (0x38 : Byte) ≠ 0x08 ∧ (0x38 : Byte) ≠ 0x10 :=
  ⟨{ walk twoTokens 1 1160 false (.execChecked .token) with env := env [.done] [] [0x38] [] [] }, rfl, by decide, rfl,
    rfl, by decide, by decide⟩

/-- X2, and a read address answered with 0x48. -/
theorem witness_CheckedAddressRefusedFlagsAddressNack :
    (∃ s : State, s.mode = .execChecked .token ∧ decodeWord s.rp s.tReg = .startW 0 0x51 ∧
      s.env.waits = .done :: .done :: [] ∧ s.env.statuses = 0x08 :: 0x20 :: [] ∧ (0x20 : Byte) ≠ 0x18) ∧
    ∃ s : State, s.mode = .execChecked .token ∧ decodeWord s.rp s.tReg = .startR 0 0x50 ∧
      s.env.waits = .done :: .done :: [] ∧ s.env.statuses = 0x10 :: 0x48 :: [] ∧ (0x48 : Byte) ≠ 0x18 ∧
      (0x48 : Byte) ≠ 0x40 :=
  ⟨⟨{ walk [(0, 2), (1, 1162)] 1 1162 false (.execChecked .token) with
      env := env [.done, .done] [] [0x08, 0x20] [] [] }, rfl, by decide, rfl, rfl, by decide⟩,
    { walk [(0, 2), (1, 1161)] 1 1161 false (.execChecked .token) with
      env := env [.done, .done] [] [0x10, 0x48] [] [] }, rfl, by decide, rfl, rfl, by decide, by decide⟩

/-- A count of 0 (X5), of 2 (X4), and the last data token. -/
theorem witness_CheckedZeroCountFlagsNoBytes :
    ∀ n ∈ ([0, 2, 999] : List Word), ∃ s : State, s.mode = .execChecked .addrStatus ∧ s.abReg = addrByte 0x50 true ∧
      s.iReg.toNat + 1 < s.tbLen ∧ s.tbLen < Config.tbCap ∧ readSlot s.tb (s.iReg.toNat + 1) = some n ∧
      n.toNat < 1000 ∧ s.env.statuses = 0x40 :: [] := by
  intro n h
  simp only [List.mem_cons, List.not_mem_nil, or_false] at h
  rcases h with rfl | rfl | rfl
  all_goals
    exact ⟨{ walk [(0, 3), (1, 1161), (2, _)] 1 1161 false (.execChecked .addrStatus) with
      abReg := 0xA1, env := env [] [] [0x40] [] [] }, rfl, by decide, by decide, by decide, rfl, by decide, rfl⟩

/-- X4: two bytes; one byte; and the count test of 0 and of 2. -/
theorem witness_CheckedReadCountReportsEveryByte :
    (∃ s : State, s.mode = .execChecked .readCall ∧ ReadInv s ∧ s.tReg = 2 ∧ s.kReg = 1 ∧ WalkGoesOn s ∧
      s.env.waits = List.replicate 2 .done ++ [] ∧ s.env.statuses = List.replicate 1 0x50 ++ 0x58 :: [] ∧
      s.env.datas = [0x12, 0x34] ++ [] ∧ ([0x12, 0x34] : List Byte).length = (2 : Word).toNat) ∧
    (∃ s : State, s.mode = .execChecked .readCall ∧ ReadInv s ∧ s.tReg = 1 ∧ s.kReg = 1 ∧ WalkGoesOn s ∧
      s.env.waits = List.replicate 1 .done ++ [] ∧ s.env.statuses = List.replicate 0 0x50 ++ 0x58 :: [] ∧
      s.env.datas = [0x12] ++ [] ∧ ([0x12] : List Byte).length = (1 : Word).toNat) ∧
    ∀ n ∈ ([0, 2] : List Word), (walk [(0, 3), (1, 1161), (2, n)] 2 n true (.execChecked .token)).mode =
      .execChecked .token :=
  ⟨⟨{ walk [(0, 3), (1, 1161), (2, 2)] 2 2 true (.execChecked .readCall) with
      nReg := 2, kReg := 1, env := env [.done, .done] [] [0x50, 0x58] [0x12, 0x34] [] }, rfl,
      ⟨by decide, rfl, rfl, by decide, by decide⟩, rfl, rfl,
      ⟨by decide, by decide, fun h => absurd h (by decide)⟩, rfl, rfl, rfl, rfl⟩,
    ⟨{ walk [(0, 3), (1, 1161), (2, 1)] 2 1 true (.execChecked .readCall) with
      nReg := 1, kReg := 1, env := env [.done] [] [0x58] [0x12] [] }, rfl,
      ⟨by decide, rfl, rfl, by decide, by decide⟩, rfl, rfl,
      ⟨by decide, by decide, fun h => absurd h (by decide)⟩, rfl, rfl, rfl, rfl⟩,
    fun _ _ => rfl⟩

/-- X7: the second byte of three; X8: the last byte of one. -/
theorem witness_CheckedReadFailureFlagsItsKind :
    (∃ s : State, s.mode = .execChecked .readStatus ∧ ReadInv s ∧ s.tReg = 3 ∧ s.env.statuses = 0x48 :: [] ∧
      s.kReg.toNat < (3 : Word).toNat ∧ (0x48 : Byte) ≠ 0x50) ∧
    ∃ s : State, s.mode = .execChecked .readStatus ∧ ReadInv s ∧ s.tReg = 1 ∧ s.env.statuses = 0x50 :: [] ∧
      s.kReg.toNat = (1 : Word).toNat ∧ (0x50 : Byte) ≠ 0x58 :=
  ⟨⟨{ walk [(0, 3), (1, 1161), (2, 3)] 2 3 true (.execChecked .readStatus) with
      nReg := 3, kReg := 2, env := env [] [] [0x48] [] [] }, rfl, ⟨by decide, rfl, rfl, by decide, by decide⟩, rfl,
      rfl, by decide, by decide⟩,
    { walk [(0, 3), (1, 1161), (2, 1)] 2 1 true (.execChecked .readStatus) with
      nReg := 1, kReg := 1, env := env [] [] [0x50] [] [] }, rfl, ⟨by decide, rfl, rfl, by decide, by decide⟩, rfl,
      rfl, by decide, by decide⟩

/-- X1: the write of 0xA0, the last token of the line. -/
theorem witness_CheckedDataTokenWritesItsLowByte :
    ∃ s : State, s.mode = .execChecked .token ∧ decodeWord s.rp s.tReg = .dataWrite 160 ∧ WalkGoesOn s ∧
      s.env.waits = .done :: [] :=
  ⟨{ walk twoTokens 2 160 false (.execChecked .token) with env := env [.done] [] [] [] [] }, rfl, by decide,
    ⟨by decide, by decide, fun h => absurd h (by decide)⟩, rfl⟩

/-- X9, at each of the four waits. -/
theorem witness_CheckedTimeoutResetsOnceAndEndsTheWalk :
    ∀ p ∈ ([.startWait, .addrWait, .readWait, .writeWait] : List CheckedAt),
      ∃ s : State, s.mode = .execChecked p ∧ p.inv s ∧ s.env.waits = .timeout :: [] ∧ s.env.resets = .ok :: [] ∧
        s.env.releases = .done :: [] := by
  intro p hp
  simp only [List.mem_cons, List.not_mem_nil, or_false] at hp
  rcases hp with rfl | rfl | rfl | rfl
  · exact ⟨{ walk twoTokens 1 1160 false (.execChecked .startWait) with env := env [.timeout] [.done] [] [] [.ok] },
      rfl, ⟨rfl, by unfold StartInv; decide⟩, rfl, rfl, rfl⟩
  · exact ⟨{ walk twoTokens 1 1160 false (.execChecked .addrWait) with
      abReg := 0xA0, env := env [.timeout] [.done] [] [] [.ok] }, rfl, ⟨rfl, by unfold StartInv; decide, by decide⟩, rfl,
      rfl, rfl⟩
  · exact ⟨{ walk [(0, 3), (1, 1161), (2, 1)] 2 1 true (.execChecked .readWait) with
      nReg := 1, kReg := 1, env := env [.timeout] [.done] [] [] [.ok] }, rfl,
      ⟨rfl, by decide, rfl, rfl, by decide, by decide⟩, rfl, rfl, rfl⟩
  · exact ⟨{ walk twoTokens 2 160 false (.execChecked .writeWait) with env := env [.timeout] [.done] [] [] [.ok] },
      rfl, ⟨rfl, by decide, rfl⟩, rfl, rfl, rfl⟩

/-- X14, X10. -/
theorem witness_CheckedCleanupStopsReleasesAndRecords :
    (∃ s : State, s.mode = .execChecked .stop ∧ s.env.releases = .done :: []) ∧
      ∃ s : State, s.mode = .execChecked .stop ∧ s.env.releases = .timeout :: [] ∧ s.env.resets = .ok :: [] :=
  ⟨⟨{ line with mode := .execChecked .stop, env := env [] [.done] [] [] [] }, rfl, rfl⟩,
    { line with mode := .execChecked .stop, env := env [] [.timeout] [] [] [.ok] }, rfl, rfl, rfl⟩

/-- B1; and a read address before a count, before a count of 0, and at the end of the line. -/
theorem witness_BroadcastStartTokenChecksNothing :
    (∃ s : State, s.mode = .execBcast .token ∧ decodeWord s.rp s.tReg = .startW 0 0x51 ∧ LineGoesOn s ∧
      s.env.waits = .done :: .done :: [] ∧ s.env.statuses = 0x20 :: []) ∧
    ∀ tb ∈ ([[(0, 3), (1, 1161), (2, 2)], [(0, 4), (1, 1161), (2, 0), (3, 160)], [(0, 2), (1, 1161)]] : List Buffer),
      ∃ s : State, s.tb = tb ∧ s.mode = .execBcast .token ∧ decodeWord s.rp s.tReg = .startR 0 0x50 ∧ LineGoesOn s ∧
        s.env.waits = .done :: .done :: [] ∧ s.env.statuses = 0x40 :: [] := by
  have live : ∀ (tb : Buffer) (n : Nat), (∀ a ∈ List.range n, 1 < a → (readSlot tb a).isSome = true) →
      ∀ a, 1 < a → a < n → ∃ w, readSlot tb a = some w := fun tb n h a h1 h2 =>
    Option.isSome_iff_exists.mp (h a (List.mem_range.mpr h2) h1)
  refine ⟨⟨{ walk [(0, 3), (1, 1162), (2, 0)] 1 1162 false (.execBcast .token) with
      env := env [.done, .done] [] [0x20] [] [] }, rfl, by decide, ⟨by decide, by decide, live _ 3 (by decide)⟩, rfl,
    rfl⟩, fun tb h => ⟨{ walk tb 1 1161 false (.execBcast .token) with env := env [.done, .done] [] [0x40] [] [] },
      rfl, rfl, (by decide : decodeWord false 1161 = .startR 0 0x50), ?_, rfl, rfl⟩⟩
  simp only [List.mem_cons, List.not_mem_nil, or_false] at h
  rcases h with rfl | rfl | rfl
  · exact ⟨by decide, by decide, live _ 3 (by decide)⟩
  · exact ⟨by decide, by decide, live _ 4 (by decide)⟩
  · exact ⟨by decide, by decide, live _ 2 (by decide)⟩

/-- B2, a count of 1, and a count of 0 (B3). -/
theorem witness_BroadcastReadCountReportsEveryByte :
    (∃ s : State, s.mode = .execBcast .readCall ∧ ReadInv s ∧ s.tReg = 2 ∧ s.kReg = 1 ∧ WalkGoesOn s ∧
      s.env.waits = List.replicate 2 .done ++ [] ∧ s.env.datas = [0x12, 0x34] ++ []) ∧
    (∃ s : State, s.mode = .execBcast .readCall ∧ ReadInv s ∧ s.tReg = 1 ∧ s.kReg = 1 ∧ WalkGoesOn s ∧
      s.env.waits = List.replicate 1 .done ++ [] ∧ s.env.datas = [0x12] ++ []) ∧
    ∃ s : State, s.mode = .execBcast .token ∧ decodeWord s.rp s.tReg = .readCount 0 ∧ WalkGoesOn s :=
  ⟨⟨{ walk [(0, 3), (1, 1161), (2, 2)] 2 2 true (.execBcast .readCall) with
      nReg := 2, kReg := 1, env := env [.done, .done] [] [] [0x12, 0x34] [] }, rfl,
      ⟨by decide, rfl, rfl, by decide, by decide⟩, rfl, rfl,
      ⟨by decide, by decide, fun h => absurd h (by decide)⟩, rfl, rfl⟩,
    ⟨{ walk [(0, 3), (1, 1161), (2, 1)] 2 1 true (.execBcast .readCall) with
      nReg := 1, kReg := 1, env := env [.done] [] [] [0x12] [] }, rfl,
      ⟨by decide, rfl, rfl, by decide, by decide⟩, rfl, rfl,
      ⟨by decide, by decide, fun h => absurd h (by decide)⟩, rfl, rfl⟩,
    walk [(0, 3), (1, 1161), (2, 0)] 2 0 true (.execBcast .token), rfl, by decide, by decide, by decide,
      fun h => absurd h (by decide)⟩

theorem witness_BroadcastDataTokenWritesItsLowByte :
    ∃ s : State, s.mode = .execBcast .token ∧ decodeWord s.rp s.tReg = .dataWrite 160 ∧ WalkGoesOn s ∧
      s.env.waits = .done :: [] :=
  ⟨{ walk twoTokens 2 160 false (.execBcast .token) with env := env [.done] [] [] [] [] }, rfl, by decide,
    ⟨by decide, by decide, fun h => absurd h (by decide)⟩, rfl⟩

/-- B4 at each of the four waits, B5, and the ordinary cleanup. -/
theorem witness_BroadcastTimeoutResetsAndEndsTheWalk :
    (∀ p ∈ ([.startWait, .addrWait, .readWait, .writeWait] : List BcastAt),
      ∃ s : State, s.mode = .execBcast p ∧ p.inv s ∧ s.env.waits = .timeout :: [] ∧ s.env.resets = .ok :: [] ∧
        s.env.releases = .done :: []) ∧
    (∃ s : State, s.mode = .execBcast .stop ∧ s.env.releases = .timeout :: [] ∧ s.env.resets = .ok :: []) ∧
    ∃ s : State, s.mode = .execBcast .stop ∧ s.env.releases = .done :: [] := by
  refine ⟨fun p hp => ?_,
    ⟨{ line with mode := .execBcast .stop, env := env [] [.timeout] [] [] [.ok] }, rfl, rfl, rfl⟩,
    { line with mode := .execBcast .stop, env := env [] [.done] [] [] [] }, rfl, rfl⟩
  simp only [List.mem_cons, List.not_mem_nil, or_false] at hp
  rcases hp with rfl | rfl | rfl | rfl
  · exact ⟨{ walk twoTokens 1 1160 false (.execBcast .startWait) with env := env [.timeout] [.done] [] [] [.ok] },
      rfl, ⟨rfl, by unfold StartInv; decide⟩, rfl, rfl, rfl⟩
  · exact ⟨{ walk twoTokens 1 1160 false (.execBcast .addrWait) with
      abReg := 0xA0, env := env [.timeout] [.done] [] [] [.ok] }, rfl, ⟨rfl, by unfold StartInv; decide, by decide⟩, rfl,
      rfl, rfl⟩
  · exact ⟨{ walk [(0, 3), (1, 1161), (2, 1)] 2 1 true (.execBcast .readWait) with
      nReg := 1, kReg := 1, env := env [.timeout] [.done] [] [] [.ok] }, rfl,
      ⟨rfl, by decide, rfl, rfl, by decide, by decide⟩, rfl, rfl, rfl⟩
  · exact ⟨{ walk twoTokens 2 160 false (.execBcast .writeWait) with env := env [.timeout] [.done] [] [] [.ok] },
      rfl, ⟨rfl, by decide, rfl⟩, rfl, rfl, rfl⟩

theorem witness_BroadcastNeverTouchesTheLastError :
    ∃ t, step (walk twoTokens 1 1160 false (.execBcast .token)) = .next t := ⟨_, rfl⟩

/-- X1 at its dispatch, with a byte of the next line waiting. -/
def checkedLine : State :=
  { line with mode := .lex .ld, tb := twoTokens, input := [0x48],
              env := env [.done, .done, .done] [.done] [0x08, 0x18] [] [] }

/-- The events of X1. -/
def checkedEvents : List Event :=
  [.start, .wait .done, .status 0x08, .write 0xA0, .wait .done, .status 0x18, .write 0xA0, .wait .done, .stop,
    .release .done]

/-- X1: the walk's 11 steps from the dispatch, and an environment of the same answers. -/
theorem witness_BroadcastRepeatsAnErrorFreeCheckedWalk :
    ∃ (tc : State) (e : Env), checkedLine.mode = .lex .ld ∧ checkedLine.admin = false ∧
      Reaches 11 { checkedLine with bcast := false } tc ∧ tc.mode = .lex .l1 ∧
      tc.trace = checkedLine.trace ++ checkedEvents ∧ (∀ b, Event.rx b ∉ checkedEvents) ∧
      Event.wait .timeout ∉ checkedEvents ∧ tc.err = 0 ∧
      checkedEvents.filterMap Event.waited <+: e.waits ∧ checkedEvents.filterMap Event.released <+: e.releases ∧
      checkedEvents.filterMap Event.received <+: e.datas ∧ checkedEvents.filterMap Event.wasReset <+: e.resets ∧
      addressStatuses checkedEvents <+: e.statuses ∧ addressStatuses checkedEvents = [0x18] :=
  ⟨_, env [.done, .done, .done] [.done] [0x18] [] [], rfl, rfl, rfl, rfl, rfl, by simp [checkedEvents], by decide, rfl,
    by decide, by decide, by decide, by decide, by decide, by decide⟩

theorem witness_FailedBusResetHaltsAtOnce :
    ∃ s : State, s.mode = .execChecked .timeout ∧ s.env.resets = .fail :: [] :=
  ⟨{ line with mode := .execChecked .timeout, env := env [] [] [] [] [.fail] }, rfl, rfl⟩

/-- Both ways to halt. -/
theorem witness_OnlyTwoCausesHalt :
    (∃ s t c, OrderInv s ∧ step s = .next t ∧ t.mode = .halted c ∧ c = Config.fatalOverflow) ∧
      ∃ s t c, OrderInv s ∧ step s = .next t ∧ t.mode = .halted c ∧ c = Config.fatalPeriph :=
  ⟨⟨{ line with tb := [(0, 260)] }, _, _, ⟨rfl, rfl⟩, rfl, rfl, rfl⟩,
    { line with mode := .execChecked .fatal, trace := [.start, .wait .timeout, .reset .fail] }, _, _,
    ⟨by decide, by decide⟩, rfl, rfl, rfl⟩

/-- `T` at its call, and `*` after `1`. -/
theorem witness_OnlyCommandsChangeSpeedAndBroadcast :
    (∃ t, step { line with mode := .adminop (.setSpeed .fast) } = .next t ∧ t.speed ≠ .std) ∧
      ∃ t, step { line with acc := 1, input := [0x2A] } = .next t ∧ t.bcast ≠ false := by
  refine ⟨⟨_, rfl, ?_⟩, _, rfl, ?_⟩
  · rcases beginText_cases (fun r => .adminop (.speedReply .fast r)) (Config.speedSetReply .fast) State.backToLine
      (({ line with mode := .adminop (.setSpeed .fast) } : State).setSpeed .fast) with ⟨_, e⟩ | ⟨_, e⟩
    · exact fun h => absurd ((congrArg State.speed e).symm.trans h) (by decide)
    · exact fun h => absurd ((congrArg State.speed e).symm.trans h) (by simp [State.goto, State.setSpeed])
  · rcases beginText_cases (fun r => .adminop (.bcast r)) (bcastMsg true) endBcast
      { (({ line with acc := 1, input := [0x2A] } : State).rx 0x2A []).markAdmin with bcast := true } with
      ⟨_, e⟩ | ⟨_, e⟩
    · exact fun h => absurd ((congrArg State.bcast e).symm.trans h) (by decide)
    · exact fun h => absurd ((congrArg State.bcast e).symm.trans h) (by simp [State.goto])

/-- The return of a checked walk with an error, and `^`. -/
theorem witness_LastErrorHasThreeWriters :
    (∃ t, step { line with err := 1, mode := .execChecked .release, env := env [] [.done] [] [] [] } = .next t ∧
      t.lasterr ≠ 0) ∧
    ∃ t, step { line with lasterr := 2, mode := .adminop (.err [0]) } = .next t ∧ t.lasterr ≠ 2 :=
  ⟨⟨_, rfl, by decide⟩, _, rfl, by decide⟩

/-- A step of a walk, a terminator at `L1`, and one at `L0`. -/
theorem witness_OnlyTheLexerWritesTokens :
    (∃ t, step (walk twoTokens 1 1160 false (.execChecked .token)) = .next t) ∧
      (∃ t, step { line with input := [0x24] } = .next t ∧ 1 ≤ line.tbLen) ∧
      ∃ t, step { State.reset with input := [0x24] } = .next t := ⟨⟨_, rfl⟩, ⟨_, rfl, by decide⟩, _, rfl⟩

theorem witness_InputIsTakenInOrder : ∃ t, step { line with input := [0x24] } = .next t := ⟨_, rfl⟩

/-- A byte received; a step that waits, and the dispatch, which add no call. -/
theorem witness_StepAddsAtMostOneCall :
    (∃ t, step { line with input := [0x24] } = .next t) ∧
      (∃ s t, WalkInv s ∧ SendInv s ∧ step s = .next t ∧ t.trace = s.trace ∧ s.mode = .lex .l1 ∧ s.input = []) ∧
      ∃ s t, WalkInv s ∧ SendInv s ∧ step s = .next t ∧ t.trace = s.trace ∧ s.mode = .lex .ld :=
  ⟨⟨_, rfl⟩, ⟨line, _, trivial, nofun, rfl, rfl, rfl, rfl⟩,
    { line with mode := .lex .ld }, _, (by decide : line.tbLen < Config.tbCap), nofun, rfl, rfl, rfl⟩

/-- The state of X1 at its data token's wait meets every invariant, and steps. -/
theorem witness_invariants :
    ∃ s t : State, BufferInv s ∧ WalkInv s ∧ OrderInv s ∧ ReservedBitsInv s ∧ ErrInv s ∧ BusInv s ∧ SpeedInv s ∧
      HaltInv s ∧ ScanInv s ∧ PositionInv s ∧ step s = .next t := by
  refine ⟨{ walk twoTokens 2 160 false (.execChecked .writeWait) with
      busHeld := true, env := env [.done] [] [] [] [],
      trace := [.start, .wait .done, .status 0x08, .write 0xA0, .wait .done, .status 0x18, .write 0xA0] },
    _, ⟨by decide, by decide, by decide, ?_⟩, ⟨by decide, rfl, by decide, rfl⟩, ⟨by decide, by decide⟩, ?_, rfl,
    fun h => absurd h (by decide), rfl, fun c h => (by cases h), trivial, rfl, rfl⟩
  · intro a h1 h2
    have h2 : a < 3 := h2
    interval_cases a
    · exact ⟨1160, by decide, by unfold lexedWord; decide⟩
    · exact ⟨160, by decide, by unfold lexedWord; decide⟩
  · simp [ReservedBitsInv, walk, State.reset]

theorem witness_StepKeepsTheBufferAndTheWalk : ∃ s t : State, BufferInv s ∧ WalkInv s ∧ step s = .next t := by
  obtain ⟨s, t, h⟩ := witness_invariants; exact ⟨s, t, h.1, h.2.1, h.2.2.2.2.2.2.2.2.2.2⟩

theorem witness_OnlyTheHaltStopsAStep : ∃ s : State, BufferInv s ∧ WalkInv s := by
  obtain ⟨s, t, h⟩ := witness_invariants; exact ⟨s, h.1, h.2.1⟩

theorem witness_StepKeepsTheEventOrder : ∃ s t : State, WalkInv s ∧ OrderInv s ∧ step s = .next t := by
  obtain ⟨s, t, h⟩ := witness_invariants; exact ⟨s, t, h.2.1, h.2.2.1, h.2.2.2.2.2.2.2.2.2.2⟩

theorem witness_StepKeepsTheReservedBitsZero : ∃ s t : State, ReservedBitsInv s ∧ step s = .next t := by
  obtain ⟨s, t, h⟩ := witness_invariants; exact ⟨s, t, h.2.2.2.1, h.2.2.2.2.2.2.2.2.2.2⟩

theorem witness_StepKeepsOneFailureAWalk : ∃ s t : State, ErrInv s ∧ step s = .next t := by
  obtain ⟨s, t, h⟩ := witness_invariants; exact ⟨s, t, h.2.2.2.2.1, h.2.2.2.2.2.2.2.2.2.2⟩

theorem witness_StepKeepsTheBusReleasedBetweenWalks : ∃ s t : State, BusInv s ∧ step s = .next t := by
  obtain ⟨s, t, h⟩ := witness_invariants; exact ⟨s, t, h.2.2.2.2.2.1, h.2.2.2.2.2.2.2.2.2.2⟩

theorem witness_StepKeepsSpeedHaltScanAndPosition :
    ∃ s t : State, SpeedInv s ∧ HaltInv s ∧ ScanInv s ∧ PositionInv s ∧ step s = .next t := by
  obtain ⟨s, t, h⟩ := witness_invariants; exact ⟨s, t, h.2.2.2.2.2.2⟩

theorem witness_EveryCommandReturnsOrHalts : ∃ s : State, BufferInv s ∧ WalkInv s ∧ ScanInv s := by
  obtain ⟨s, t, h⟩ := witness_invariants; exact ⟨s, h.1, h.2.1, h.2.2.2.2.2.2.2.2.1⟩

end Sys2Proof.Machine.Tests
end

/-! ## What each kind of move leaves alone

A frame for each of the move relations, and from them, for every step: who may change `SPEED`, `BCAST`, `LASTERR`, the
buffer, the input position and the trace. -/

namespace Sys2Proof.Machine

/-- Whether a call is an `Rx()`: what `rxCount` counts. -/
def Event.isRx : Event → Bool
  | .rx _ => true
  | _ => false

theorem rxCount_eq_countP (t : List Event) : rxCount t = t.countP Event.isRx := rfl

theorem rxCount_append (t : List Event) (e : Event) :
    rxCount (t ++ [e]) = rxCount t + if e.isRx then 1 else 0 := by
  simp [rxCount_eq_countP, List.countP_append, List.countP_singleton]

/-- What only the session loop and the administrative commands change: the two settings with the PAL's speed, and the
input with its position; the step adds at most one call, and that is no `Rx()`. -/
structure KeepsSession (s t : State) : Prop where
  speed : t.speed = s.speed
  palSpeed : t.palSpeed = s.palSpeed
  bcast : t.bcast = s.bcast
  input : t.input = s.input
  inPos : t.inPos = s.inPos
  calls : t.trace = s.trace ∨ ∃ e : Event, e.isRx = false ∧ t.trace = s.trace ++ [e]

/-- A step with the session kept and no call. -/
theorem KeepsSession.silent {s t : State} (hs : t.speed = s.speed) (hp : t.palSpeed = s.palSpeed)
    (hb : t.bcast = s.bcast) (hi : t.input = s.input) (hn : t.inPos = s.inPos) (ht : t.trace = s.trace) :
    KeepsSession s t := ⟨hs, hp, hb, hi, hn, .inl ht⟩

/-- A step with the session kept and one call `e`. -/
theorem KeepsSession.call {s t : State} (e : Event) (he : e.isRx = false) (hs : t.speed = s.speed)
    (hp : t.palSpeed = s.palSpeed) (hb : t.bcast = s.bcast) (hi : t.input = s.input) (hn : t.inPos = s.inPos)
    (ht : t.trace = s.trace ++ [e]) : KeepsSession s t := ⟨hs, hp, hb, hi, hn, .inr ⟨e, he, ht⟩⟩

/-- The session stays kept where what follows changes none of its fields. -/
theorem KeepsSession.then {s u t : State} (h : KeepsSession s u) (hs : t.speed = u.speed)
    (hp : t.palSpeed = u.palSpeed) (hb : t.bcast = u.bcast) (hi : t.input = u.input) (hn : t.inPos = u.inPos)
    (ht : t.trace = u.trace) : KeepsSession s t :=
  ⟨hs.trans h.speed, hp.trans h.palSpeed, hb.trans h.bcast, hi.trans h.input, hn.trans h.inPos, by
    rw [ht]; exact h.calls⟩

/-! ### The fields that the parts of a move leave alone -/

theorem AtLine.fields {s u : State} (h : AtLine s u) :
    u = { s with acc := u.acc, tb := u.tb, admin := u.admin, mode := u.mode } := by
  cases h <;> rfl

theorem Walked.fields {token stop : Mode} {s t : State} (h : Walked token stop s t) :
    t = { s with tReg := t.tReg, mode := t.mode } := by
  cases h <;> rfl

theorem CWalked.fields {s t : State} (h : CWalked s t) :
    t = { s with tReg := t.tReg, nReg := t.nReg, kReg := t.kReg, err := t.err, mode := t.mode } := by
  cases h <;> rfl

theorem BWalked.fields {s t : State} (h : BWalked s t) :
    t = { s with iReg := t.iReg, tReg := t.tReg, rp := t.rp, nReg := t.nReg, kReg := t.kReg, mode := t.mode } := by
  cases h with
  | stop | token | count => rfl
  | zero _ _ _ hw => rw [hw.fields]

theorem Probed.fields {s t : State} (h : Probed s t) : t = { s with mode := t.mode } := by
  cases h <;> rfl

theorem Sent.keepsSession {s u : State} {r : List Byte} (h : Sent s r u) : KeepsSession s u := by
  cases h with
  | none => exact .silent rfl rfl rfl rfl rfl rfl
  | last b => exact .call _ rfl rfl rfl rfl rfl rfl rfl

theorem CWalked.keepsSession {s u t : State} (h : CWalked u t) (hu : KeepsSession s u) : KeepsSession s t := by
  rw [h.fields]; exact hu.then rfl rfl rfl rfl rfl rfl

theorem Walked.keepsSession {token stop : Mode} {s u t : State} (h : Walked token stop u t) (hu : KeepsSession s u) :
    KeepsSession s t := by
  rw [h.fields]; exact hu.then rfl rfl rfl rfl rfl rfl

theorem BWalked.keepsSession {s u t : State} (h : BWalked u t) (hu : KeepsSession s u) : KeepsSession s t := by
  rw [h.fields]; exact hu.then rfl rfl rfl rfl rfl rfl

theorem Probed.keepsSession {s u t : State} (h : Probed u t) (hu : KeepsSession s u) : KeepsSession s t := by
  rw [h.fields]; exact hu.then rfl rfl rfl rfl rfl rfl

/-! ### The session -/

theorem CheckedMove.keepsSession {s t : State} {p : CheckedAt} (h : CheckedMove s p t) : KeepsSession s t := by
  cases h with
  | addressed _ hw => exact hw.keepsSession (.call _ rfl rfl rfl rfl rfl rfl rfl)
  | written _ hw => exact hw.keepsSession (.call _ rfl rfl rfl rfl rfl rfl rfl)
  | readEnd hu _ hw => exact hw.keepsSession (hu.keepsSession.then rfl rfl rfl rfl rfl rfl)
  | again hu _ => exact hu.keepsSession.then rfl rfl rfl rfl rfl rfl
  | count | zero => exact .silent rfl rfl rfl rfl rfl rfl
  | _ => exact .call _ rfl rfl rfl rfl rfl rfl rfl

theorem BcastMove.keepsSession {s t : State} {p : BcastAt} (h : BcastMove s p t) : KeepsSession s t := by
  cases h with
  | addressed hw => exact hw.keepsSession (.call _ rfl rfl rfl rfl rfl rfl rfl)
  | written _ hw => exact hw.keepsSession (.call _ rfl rfl rfl rfl rfl rfl rfl)
  | readEnd hu _ hw => exact hw.keepsSession (hu.keepsSession.then rfl rfl rfl rfl rfl rfl)
  | again hu _ => exact hu.keepsSession.then rfl rfl rfl rfl rfl rfl
  | zero _ _ _ _ _ hw => exact hw.keepsSession (.silent rfl rfl rfl rfl rfl rfl)
  | count => exact .silent rfl rfl rfl rfl rfl rfl
  | _ => exact .call _ rfl rfl rfl rfl rfl rfl rfl

theorem ScanMove.keepsSession {s t : State} {p : ScanAt} (h : ScanMove s p t) : KeepsSession s t := by
  cases h with
  | absent _ hp => exact hp.keepsSession (.call _ rfl rfl rfl rfl rfl rfl rfl)
  | reported hu hp => exact hp.keepsSession (hu.keepsSession.then rfl rfl rfl rfl rfl rfl)
  | _ => exact .call _ rfl rfl rfl rfl rfl rfl rfl

/-- An administrative command but for the one that sets the speed. -/
theorem AdminMove.keepsSession {s t : State} {p : AdminAt} (h : AdminMove s p t) (hp : ∀ u, p ≠ .setSpeed u) :
    KeepsSession s t := by
  cases h with
  | said _ _ hu | clear hu _ | star hu => exact hu.keepsSession.then rfl rfl rfl rfl rfl rfl
  | more | reset => exact .call _ rfl rfl rfl rfl rfl rfl rfl
  | speed => exact absurd rfl (hp _)

/-- What a received byte does keeps the session, but for `*`. -/
theorem Lexed.keepsSession {v t : State} {b : Byte} (h : Lexed v b t) (hb : b ≠ 0x2A) : KeepsSession v t := by
  cases h with
  | star => exact absurd rfl hb
  | _ => exact .silent rfl rfl rfl rfl rfl rfl

/-- What a received byte does is no call, and takes no further input. -/
theorem Lexed.position {v t : State} {b : Byte} (h : Lexed v b t) : t.inPos = v.inPos ∧ t.trace = v.trace := by
  cases h <;> exact ⟨rfl, rfl⟩

/-- A received byte was the next of the input. -/
theorem Received.input {s u v : State} {b : Byte} (h : Received s u b v) : s.input = b :: v.input := by
  cases h with
  | mk hl _ hi => rw [State.rx_input, ← hi, hl.fields]

theorem Received.mode {s u v : State} {b : Byte} (h : Received s u b v) : v.mode = .lex .l1 := by
  cases h with
  | mk hl => exact hl.mode

theorem Received.atLine {s u v : State} {b : Byte} (h : Received s u b v) : AtLine s u := by
  cases h; assumption

/-- What an `Rx()` changes, the line start before it included (R91, R92). -/
theorem Received.fields {s u v : State} {b : Byte} (h : Received s u b v) :
    v = { u with input := v.input, inPos := s.inPos + 1, trace := s.trace ++ [.rx b] } := by
  cases h with
  | mk hl => cases hl <;> rfl

/-- What one step does to the session: it keeps it, it is an `Rx()`, or the `Bus.SetSpeed` of a command (R21, R22,
R32). -/
inductive SessionStep (s t : State) : Prop
  | keeps : KeepsSession s t → SessionStep s t
  | received {u v b} : Received s u b v → Lexed v b t → SessionStep s t
  | speed {tier} : s.mode = .adminop (.setSpeed tier) → t.speed = tier → t.palSpeed = tier →
      t.bcast = s.bcast → t.input = s.input → t.inPos = s.inPos → t.trace = s.trace ++ [.setSpeed tier] →
      SessionStep s t

theorem Move.session {s t : State} (h : Move s t) : SessionStep s t := by
  cases h with
  | waiting hl => rw [hl.fields]; exact .keeps (.silent rfl rfl rfl rfl rfl rfl)
  | overflow => exact .keeps (.call _ rfl rfl rfl rfl rfl rfl rfl)
  | received hr hl => exact .received hr hl
  | newLine => exact .keeps (.silent rfl rfl rfl rfl rfl rfl)
  | checkedWalk _ _ _ hw => exact .keeps (hw.keepsSession (.silent rfl rfl rfl rfl rfl rfl))
  | bcastWalk _ _ _ hw => exact .keeps (hw.keepsSession (.silent rfl rfl rfl rfl rfl rfl))
  | @admin p _ hm _ ha =>
    by_cases hp : ∃ u, p = .setSpeed u
    · obtain ⟨u, rfl⟩ := hp
      cases ha with
      | more _ hsay => simp [AdminAt.saying] at hsay
      | said hsay => simp [AdminAt.saying] at hsay
      | speed m => exact .speed hm rfl rfl rfl rfl rfl rfl
    · exact .keeps (ha.keepsSession fun u hu => hp ⟨u, hu⟩)
  | scan _ hs => exact .keeps hs.keepsSession
  | checked _ hc => exact .keeps hc.keepsSession
  | bcast _ hb => exact .keeps hb.keepsSession
  | resetFailed => exact .keeps (.call _ rfl rfl rfl rfl rfl rfl rfl)
  | fatal => exact .keeps (.call _ rfl rfl rfl rfl rfl rfl rfl)

/-! ### The buffer (R27, R56) -/

theorem Sent.tb {s u : State} {r : List Byte} (h : Sent s r u) : u.tb = s.tb := by rw [h.fields]

theorem Walked.tb {token stop : Mode} {s t : State} (h : Walked token stop s t) : t.tb = s.tb := by rw [h.fields]

theorem CWalked.tb {s t : State} (h : CWalked s t) : t.tb = s.tb := by rw [h.fields]

theorem BWalked.tb {s t : State} (h : BWalked s t) : t.tb = s.tb := by rw [h.fields]

theorem Probed.tb {s t : State} (h : Probed s t) : t.tb = s.tb := by rw [h.fields]

/-- A walk's step changes the buffer only by the line start at its return (R91). -/
theorem CheckedMove.tb {s t : State} {p : CheckedAt} (h : CheckedMove s p t) :
    t.tb = s.tb ∨ t.tb = writeSlot s.tb 0 1 := by
  cases h with
  | addressed _ hw | written _ hw => exact .inl hw.tb
  | readEnd hu _ hw => exact .inl (hw.tb.trans hu.tb)
  | again hu _ => exact .inl hu.tb
  | released | releaseReset => exact .inr rfl
  | _ => exact .inl rfl

@[inherit_doc CheckedMove.tb]
theorem BcastMove.tb {s t : State} {p : BcastAt} (h : BcastMove s p t) :
    t.tb = s.tb ∨ t.tb = writeSlot s.tb 0 1 := by
  cases h with
  | addressed hw | written _ hw | zero _ _ _ _ _ hw => exact .inl hw.tb
  | readEnd hu _ hw => exact .inl (hw.tb.trans hu.tb)
  | again hu _ => exact .inl hu.tb
  | released | releaseReset => exact .inr rfl
  | _ => exact .inl rfl

theorem ScanMove.tb {s t : State} {p : ScanAt} (h : ScanMove s p t) : t.tb = s.tb := by
  cases h with
  | absent _ hp => exact hp.tb
  | reported hu hp => exact hp.tb.trans hu.tb
  | _ => rfl

theorem AdminMove.tb {s t : State} {p : AdminAt} (h : AdminMove s p t) : t.tb = s.tb := by
  cases h with
  | said _ _ hu | clear hu _ | star hu => exact hu.tb
  | more | reset | speed => rfl

/-- What a received byte does to the buffer: at most one append, of a word of the lexer (R97 to R102). -/
theorem Lexed.tb {v t : State} {b : Byte} (h : Lexed v b t) :
    t.tb = v.tb ∨ ∃ w, lexedWord w ∧ v.tbLen < Config.tbCap ∧ t.tb = appendSlot v.tb w := by
  cases h with
  | append _ w hw hl => exact .inr ⟨w, hw, hl, rfl⟩
  | _ => exact .inl rfl

/-- What one step does to the buffer (R27): nothing; the line start; or an append at `L1`, after the line start at
`L0`. -/
inductive BufferStep (s t : State) : Prop
  | same : t.tb = s.tb → BufferStep s t
  | line : t.tb = writeSlot s.tb 0 1 → BufferStep s t
  | append {u} (w) : AtLine s u → lexedWord w → u.tbLen < Config.tbCap → t.tb = appendSlot u.tb w → BufferStep s t

theorem AtLine.bufferStep {s u t : State} (h : AtLine s u) (ht : t.tb = u.tb) : BufferStep s t := by
  cases h with
  | l0 _ => exact .line ht
  | l1 _ => exact .same ht

theorem BufferStep.of_walk {s t : State} (h : t.tb = s.tb ∨ t.tb = writeSlot s.tb 0 1) : BufferStep s t :=
  h.elim .same .line

theorem Move.buffer {s t : State} (h : Move s t) : BufferStep s t := by
  cases h with
  | waiting hl => exact hl.bufferStep rfl
  | overflow => exact .same rfl
  | @received u b v _ hr hl =>
    have htb : v.tb = u.tb := by rw [hr.fields]
    have hlen : v.tbLen = u.tbLen := by simp only [State.tbLen, htb]
    rcases hl.tb with ht | ⟨w, hw, hlt, ht⟩
    · exact hr.atLine.bufferStep (ht.trans htb)
    · exact .append w hr.atLine hw (hlen ▸ hlt) (htb ▸ ht)
  | newLine => exact .line rfl
  | checkedWalk _ _ _ hw => exact .same hw.tb
  | bcastWalk _ _ _ hw => exact .same hw.tb
  | admin _ _ ha => exact .same ha.tb
  | scan _ hs => exact .same hs.tb
  | checked _ hc => exact .of_walk hc.tb
  | bcast _ hb => exact .of_walk hb.tb
  | resetFailed => exact .same rfl
  | fatal => exact .same rfl

/-! ### The mode -/

theorem CWalked.mode {s t : State} (h : CWalked s t) : ∃ q, t.mode = .execChecked q := by
  cases h <;> exact ⟨_, rfl⟩

theorem BWalked.mode {s t : State} (h : BWalked s t) : ∃ q, t.mode = .execBcast q := by
  cases h with
  | zero _ _ _ hw => cases hw <;> exact ⟨_, rfl⟩
  | _ => exact ⟨_, rfl⟩

/-- A step of the checked executor stays in it or returns to the session loop (R160). -/
theorem CheckedMove.mode {s t : State} {p : CheckedAt} (h : CheckedMove s p t) :
    (∃ q, t.mode = .execChecked q) ∨ t.mode = .lex .l1 := by
  cases h with
  | addressed _ hw | written _ hw | readEnd _ _ hw => exact .inl hw.mode
  | released | releaseReset => exact .inr rfl
  | _ => exact .inl ⟨_, rfl⟩

/-- A step of the Broadcast executor stays in it or returns to the session loop (R177). -/
theorem BcastMove.mode {s t : State} {p : BcastAt} (h : BcastMove s p t) :
    (∃ q, t.mode = .execBcast q) ∨ t.mode = .lex .l1 := by
  cases h with
  | addressed hw | written _ hw | readEnd _ _ hw => exact .inl hw.mode
  | zero _ _ _ _ _ hw => left; cases hw <;> exact ⟨_, rfl⟩
  | released | releaseReset => exact .inr rfl
  | _ => exact .inl ⟨_, rfl⟩

/-- A step of the scanner stays in it or goes on with the line (R192). -/
theorem ScanMove.mode {s t : State} {p : ScanAt} (h : ScanMove s p t) :
    (∃ q, t.mode = .adminop (.scan q)) ∨ t.mode = .lex .l1 := by
  cases h with
  | absent _ hp | reported _ hp => left; cases hp <;> exact ⟨_, rfl⟩
  | released | releaseReset => exact .inr rfl
  | _ => exact .inl ⟨_, rfl⟩

theorem AdminAt.not_scan_of_saying {p : AdminAt} (h : p.saying = true) (q : ScanAt) : p ≠ .scan q := by
  rintro rfl; simp [AdminAt.saying] at h

/-- A step of another command stays in one, which is no scan, or goes on with the line (R115). -/
theorem AdminMove.mode {s t : State} {p : AdminAt} (h : AdminMove s p t) :
    (∃ q, t.mode = .adminop q ∧ ∀ x, q ≠ .scan x) ∨ t.mode = .lex .l1 := by
  cases h with
  | more _ _ hq => exact .inl ⟨_, rfl, AdminAt.not_scan_of_saying hq⟩
  | clear => exact .inl ⟨_, rfl, nofun⟩
  | said | reset | star => exact .inr rfl
  | speed m hm =>
    rcases hm with rfl | ⟨r, _, rfl⟩
    · exact .inr rfl
    · exact .inl ⟨_, rfl, nofun⟩

/-- Where a received byte leads: on with the line, to its dispatch, or into a command (R94). -/
theorem Lexed.mode {v t : State} {b : Byte} (h : Lexed v b t) :
    t.mode = v.mode ∨ t.mode = .lex .l1 ∨ t.mode = .lex .ld ∨ t.mode = .adminop (.scan .start) ∨
      ∃ q, t.mode = .adminop q ∧ ∀ x, q ≠ .scan x := by
  cases h with
  | digit | append | ignore => exact .inl rfl
  | silent => exact .inr (.inl rfl)
  | eol => exact .inr (.inr (.inl rfl))
  | scan => exact .inr (.inr (.inr (.inl rfl)))
  | command _ p hp =>
    refine .inr (.inr (.inr (.inr ⟨p, rfl, ?_⟩)))
    rcases hp with ⟨hp, _⟩ | ⟨u, rfl⟩
    · exact AdminAt.not_scan_of_saying hp
    · exact nofun
  | star m _ hm =>
    rcases hm with rfl | ⟨r, _, rfl⟩
    · exact .inr (.inl rfl)
    · exact .inr (.inr (.inr (.inr ⟨_, rfl, nofun⟩)))

end Sys2Proof.Machine

/-! ## The Transaction Buffer and the walk

`BufferInv` and `WalkInv` along a step (R27, R55, R74, R141): by the kind of the step. -/

namespace Sys2Proof.Machine

/-! ### The buffer -/

/-- `BufferInv` speaks of the buffer alone. -/
theorem BufferInv.of_tb_eq {s t : State} (h : BufferInv s) (ht : t.tb = s.tb) : BufferInv t := by
  simpa only [BufferInv, State.tbLen, ht] using h

theorem tbLen_of_tb_eq {s t : State} (ht : t.tb = s.tb) : t.tbLen = s.tbLen := by
  simp only [State.tbLen, ht]

theorem token_of_tb_eq {s t : State} (ht : t.tb = s.tb) (a : Nat) : t.token a = s.token a := by
  simp only [State.token, tbLen_of_tb_eq ht, ht]

/-- A line start empties the buffer (R91). -/
theorem startLine_bufferInv {s : State} (h : BufferInv s) : BufferInv s.startLine := by
  obtain ⟨hwf, -⟩ := h
  have hlen := startLine_tbLen s
  have hwf' : (writeSlot s.tb 0 1).wf = true := writeSlot_wf 1 hwf (by decide)
  refine ⟨hwf', by omega, by rw [hlen]; decide, fun a h1 hlt => by omega⟩

/-- A line start's buffer is one of the invariant wherever it is written. -/
theorem BufferInv.of_tb_line {s t : State} (h : BufferInv s) (ht : t.tb = writeSlot s.tb 0 1) : BufferInv t :=
  (startLine_bufferInv h).of_tb_eq ht

theorem AtLine.bufferInv {s u : State} (hl : AtLine s u) (h : BufferInv s) : BufferInv u := by
  cases hl with
  | l0 => exact startLine_bufferInv h
  | l1 => exact h

/-- An append of a word of the lexer below the capacity (R102). -/
theorem BufferInv.of_tb_append {u t : State} {w : Word} (h : BufferInv u) (hw : lexedWord w)
    (hl : u.tbLen < Config.tbCap) (ht : t.tb = appendSlot u.tb w) : BufferInv t := by
  obtain ⟨hwf, h1, -, htok⟩ := h
  obtain ⟨hlen, hnew, hold⟩ := appendSlot_spec u.tb w h1 hl
  have hlen' : t.tbLen = u.tbLen + 1 := by simpa only [State.tbLen, ht] using hlen
  refine ⟨ht ▸ appendSlot_wf w hwf hl, by omega, by omega, fun a ha hlt => ?_⟩
  rw [ht]
  by_cases hn : a = u.tbLen
  · exact ⟨w, hn ▸ hnew, hw⟩
  · rw [hold a (by omega) hn]
    exact htok a ha (by omega)

/-- Every step keeps the buffer canonical, with lexer words below its counter. -/
theorem Move.bufferInv {s t : State} (hm : Move s t) (h : BufferInv s) : BufferInv t := by
  cases hm.buffer with
  | same ht => exact h.of_tb_eq ht
  | line ht => exact h.of_tb_line ht
  | append w hl hw hlt ht => exact (hl.bufferInv h).of_tb_append hw hlt ht

/-! ### The walk's registers -/

/-- A fetched token is the one at `I`. -/
theorem tokenInv_of_fetch {s t : State} {w : Word} (h : s.token s.iReg.toNat = some w) (htb : t.tb = s.tb)
    (hi : t.iReg = s.iReg) (ht : t.tReg = w) : TokenInv t := by
  rw [TokenInv, token_of_tb_eq htb, hi, ht]
  exact h

/-- A token that is no read-count is a start token or a byte to write (R73). -/
theorem start_or_write {s : State} (h : ¬ (s.rp = true ∧ s.tReg.toNat < Config.startBase)) :
    StartInv s ∨ WriteInv s := by
  by_cases hl : s.tReg.toNat < Config.startBase
  · exact .inr ⟨hl, by simpa [hl] using h⟩
  · exact .inl (Nat.le_of_not_lt hl)

/-- A read-count that is not 0 is entered at its first byte (R148). -/
theorem readInv_of_entry {t : State} (hl : t.tReg.toNat < Config.startBase) (hr : t.rp = true) (h0 : t.tReg ≠ 0)
    (hn : t.nReg = t.tReg) (hk : t.kReg = 1) : ReadInv t := by
  refine ⟨hl, hr, hn, by rw [hk]; decide, ?_⟩
  rw [hk, hn]
  exact Nat.pos_of_ne_zero fun hz => h0 (BitVec.eq_of_toNat_eq hz)

/-- `WalkInv` in the checked executor. -/
theorem walkInv_checked {t : State} {p : CheckedAt} (hm : t.mode = .execChecked p) (hl : t.tbLen < Config.tbCap)
    (hp : p.inv t) : WalkInv t := by
  simpa only [WalkInv, hm] using And.intro hl hp

/-- `WalkInv` in the Broadcast executor. -/
theorem walkInv_bcast {t : State} {p : BcastAt} (hm : t.mode = .execBcast p) (hl : t.tbLen < Config.tbCap)
    (hp : p.inv t) : WalkInv t := by
  simpa only [WalkInv, hm] using And.intro hl hp

theorem walkInv_of_checked {s : State} {p : CheckedAt} (hm : s.mode = .execChecked p) (h : WalkInv s) :
    s.tbLen < Config.tbCap ∧ p.inv s := by
  simpa only [WalkInv, hm] using h

theorem walkInv_of_bcast {s : State} {p : BcastAt} (hm : s.mode = .execBcast p) (h : WalkInv s) :
    s.tbLen < Config.tbCap ∧ p.inv s := by
  simpa only [WalkInv, hm] using h

theorem walkInv_of_dispatch {s : State} (hm : s.mode = .lex .ld) (h : WalkInv s) : s.tbLen < Config.tbCap := by
  simpa only [WalkInv, hm] using h

theorem walkInv_lex1 {t : State} (hm : t.mode = .lex .l1) : WalkInv t := by simp only [WalkInv, hm]

theorem walkInv_admin {t : State} {q : AdminAt} (hm : t.mode = .adminop q) : WalkInv t := by simp only [WalkInv, hm]

theorem walkInv_halted {t : State} {c : Nat} (hm : t.mode = .halted c) : WalkInv t := by simp only [WalkInv, hm]

/-- Where the checked fetch leads, the registers agree with the token (R141, R142, R148). -/
theorem CWalked.walkInv {s t : State} (h : CWalked s t) (hl : s.tbLen < Config.tbCap) : WalkInv t := by
  cases h with
  | stop => exact walkInv_checked rfl hl trivial
  | token w _ hw hc => exact walkInv_checked rfl hl ⟨tokenInv_of_fetch hw rfl rfl rfl, start_or_write hc⟩
  | count w _ hw hr hlt h0 =>
    exact walkInv_checked rfl hl ⟨tokenInv_of_fetch hw rfl rfl rfl, readInv_of_entry hlt hr h0 rfl rfl⟩
  | zero => exact walkInv_checked rfl hl trivial

/-- A fetch that stands before the token, outside a read phase. -/
theorem Walked.walkInv {s t : State} (h : Walked (.execBcast .token) (.execBcast .stop) s t)
    (hl : s.tbLen < Config.tbCap) (hr : s.rp = false) : WalkInv t := by
  cases h with
  | stop => exact walkInv_bcast rfl hl trivial
  | token w _ hw =>
    exact walkInv_bcast rfl hl ⟨tokenInv_of_fetch hw rfl rfl rfl, start_or_write (by simp [hr])⟩

/-- Where the Broadcast fetch leads, the registers agree with the token (R171, R174). -/
theorem BWalked.walkInv {s t : State} (h : BWalked s t) (hl : s.tbLen < Config.tbCap) : WalkInv t := by
  cases h with
  | stop => exact walkInv_bcast rfl hl trivial
  | token w _ hw hc => exact walkInv_bcast rfl hl ⟨tokenInv_of_fetch hw rfl rfl rfl, start_or_write hc⟩
  | count w _ hw hr hlt h0 =>
    exact walkInv_bcast rfl hl ⟨tokenInv_of_fetch hw rfl rfl rfl, readInv_of_entry hlt hr h0 rfl rfl⟩
  | zero _ _ _ hw => exact hw.walkInv hl rfl

theorem tokenInv_of_checkedInToken {p : CheckedAt} {s : State} (h : p.inv s) (hp : p.inToken = true) : TokenInv s := by
  cases p with
  | timeout | stop | release | releaseReset | fatal => simp [CheckedAt.inToken] at hp
  | _ => exact h.1

theorem tokenInv_of_bcastInToken {p : BcastAt} {s : State} (h : p.inv s) (hp : p.inToken = true) : TokenInv s := by
  cases p with
  | timeout | stop | release | releaseReset | fatal => simp [BcastAt.inToken] at hp
  | _ => exact h.1

/-- The next byte of a read loop that is not at its last one (R149). -/
theorem ReadInv.next {s t : State} (h : ReadInv s) (hl : s.lastByte = false) (hr : t.rp = s.rp)
    (ht : t.tReg = s.tReg) (hn : t.nReg = s.nReg) (hk : t.kReg = s.kReg + 1) : ReadInv t := by
  obtain ⟨hlt, hrp, hnt, -, -⟩ := h
  have hkn : s.kReg.toNat < s.nReg.toNat := by simpa [State.lastByte] using hl
  have hk' : t.kReg.toNat = s.kReg.toNat + 1 := by
    have := s.nReg.isLt
    have hone : (1 : Word).toNat = 1 := rfl
    rw [hk, BitVec.toNat_add, hone, Nat.mod_eq_of_lt (by omega)]
  exact ⟨ht ▸ hlt, hr ▸ hrp, hn ▸ ht ▸ hnt, by omega, by rw [hn]; omega⟩

/-- A step of the checked executor keeps the registers in step with the token. -/
theorem CheckedMove.walkInv {s t : State} {p : CheckedAt} (h : CheckedMove s p t) (hl : s.tbLen < Config.tbCap)
    (hp : p.inv s) : WalkInv t := by
  cases h with
  | start hin _ ht => exact walkInv_checked rfl hl ⟨tokenInv_of_checkedInToken hp hin, Nat.le_of_not_lt ht⟩
  | startDone | addr | addrDone | nack | ack | readDone | good | data | more => exact walkInv_checked rfl hl hp
  | accepted _ ht => exact walkInv_checked rfl hl ⟨hp.1, Nat.le_of_not_lt ht, rfl⟩
  | addressed _ hw => exact hw.walkInv hl
  | written _ hw => exact hw.walkInv hl
  | readEnd hu _ hw => exact hw.walkInv ((tbLen_of_tb_eq hu.tb).trans_lt hl)
  | again hu hlast =>
    rw [hu.fields]
    exact walkInv_checked rfl hl ⟨hp.1, hp.2.next hlast rfl rfl rfl rfl⟩
  | count hin _ _ hlt hr h0 =>
    have htok := tokenInv_of_checkedInToken hp hin
    exact walkInv_checked rfl hl ⟨htok, readInv_of_entry hlt hr h0 rfl rfl⟩
  | write hin _ hlt hr => exact walkInv_checked rfl hl ⟨tokenInv_of_checkedInToken hp hin, hlt, hr⟩
  | refused | nacked | expired | zero | bad | reset | stop | held => exact walkInv_checked rfl hl trivial
  | released | releaseReset => exact walkInv_lex1 rfl

/-- A step of the Broadcast executor keeps the registers in step with the token. -/
theorem BcastMove.walkInv {s t : State} {p : BcastAt} (h : BcastMove s p t) (hl : s.tbLen < Config.tbCap)
    (hp : p.inv s) : WalkInv t := by
  cases h with
  | start hin _ ht => exact walkInv_bcast rfl hl ⟨tokenInv_of_bcastInToken hp hin, Nat.le_of_not_lt ht⟩
  | addr | addrDone | nack | ack | readDone | data | more => exact walkInv_bcast rfl hl hp
  | startDone _ ht => exact walkInv_bcast rfl hl ⟨hp.1, Nat.le_of_not_lt ht, rfl⟩
  | addressed hw => exact hw.walkInv hl
  | written _ hw => exact hw.walkInv hl
  | readEnd hu _ hw => exact hw.walkInv ((tbLen_of_tb_eq hu.tb).trans_lt hl)
  | again hu hlast =>
    rw [hu.fields]
    exact walkInv_bcast rfl hl ⟨hp.1, hp.2.next hlast rfl rfl rfl rfl⟩
  | count hin _ _ hlt hr h0 =>
    have htok := tokenInv_of_bcastInToken hp hin
    exact walkInv_bcast rfl hl ⟨htok, readInv_of_entry hlt hr h0 rfl rfl⟩
  | zero _ _ _ _ _ hw => exact hw.walkInv hl rfl
  | write hin _ hlt hr => exact walkInv_bcast rfl hl ⟨tokenInv_of_bcastInToken hp hin, hlt, hr⟩
  | expired | reset | stop | held => exact walkInv_bcast rfl hl trivial
  | released | releaseReset => exact walkInv_lex1 rfl

/-- After an `Rx()` the buffer is not full (R103). -/
theorem Received.tbLen_lt {s u v : State} {b : Byte} (h : Received s u b v) (hb : BufferInv s) :
    v.tbLen < Config.tbCap := by
  cases h with
  | mk hl hne _ =>
    obtain ⟨-, -, hle, -⟩ := hl.bufferInv hb
    exact lt_of_le_of_ne hle hne

theorem Lexed.walkInv {v t : State} {b : Byte} (h : Lexed v b t) (hm : v.mode = .lex .l1)
    (hl : v.tbLen < Config.tbCap) : WalkInv t := by
  cases h with
  | digit | append | ignore => exact walkInv_lex1 hm
  | silent => exact walkInv_lex1 rfl
  | eol => exact hl
  | scan | command => exact walkInv_admin rfl
  | star m _ hs =>
    rcases hs with rfl | ⟨r, _, rfl⟩
    · exact walkInv_lex1 rfl
    · exact walkInv_admin rfl

/-- The cleanup of a failed reset is before the fatal entry, where nothing is asked of the registers. -/
theorem walkInv_resetFailed {s : State} (hm : s.mode ∈ resetModes) (h : WalkInv s) :
    WalkInv (s.afterReset.goto s.mode.failed) := by
  simp only [resetModes, List.mem_cons, List.not_mem_nil, or_false] at hm
  rcases hm with hm | hm | hm | hm | hm | hm | hm <;> rw [hm]
  · exact walkInv_checked rfl (walkInv_of_checked hm h).1 trivial
  · exact walkInv_checked rfl (walkInv_of_checked hm h).1 trivial
  · exact walkInv_bcast rfl (walkInv_of_bcast hm h).1 trivial
  · exact walkInv_bcast rfl (walkInv_of_bcast hm h).1 trivial
  · exact walkInv_admin rfl
  · exact walkInv_admin rfl
  · exact walkInv_admin rfl

/-- Every step keeps a walk's registers in step with its token, on a buffer of the invariant. -/
theorem Move.walkInv {s t : State} (hm : Move s t) (hb : BufferInv s) (h : WalkInv s) : WalkInv t := by
  cases hm with
  | waiting hl => exact walkInv_lex1 hl.mode
  | overflow => exact walkInv_halted rfl
  | received hr hl => exact hl.walkInv hr.mode (hr.tbLen_lt hb)
  | newLine => exact walkInv_lex1 rfl
  | checkedWalk hm _ _ hw => exact hw.walkInv (show s.tbLen < _ from walkInv_of_dispatch hm h)
  | bcastWalk hm _ _ hw => exact hw.walkInv (show s.tbLen < _ from walkInv_of_dispatch hm h)
  | admin _ _ ha =>
    rcases ha.mode with ⟨q, hq, -⟩ | hq
    · exact walkInv_admin hq
    · exact walkInv_lex1 hq
  | scan _ hs =>
    rcases hs.mode with ⟨q, hq⟩ | hq
    · exact walkInv_admin hq
    · exact walkInv_lex1 hq
  | checked hm hc => exact hc.walkInv (walkInv_of_checked hm h).1 (walkInv_of_checked hm h).2
  | bcast hm hc => exact hc.walkInv (walkInv_of_bcast hm h).1 (walkInv_of_bcast hm h).2
  | resetFailed hm _ => exact walkInv_resetFailed hm h
  | fatal => exact walkInv_halted rfl

/-- Settles O52: by the kind of the step, the buffer through `BufferStep`, the walk's registers through the fetch. -/
theorem stepKeepsTheBufferAndTheWalk : Obligations.StepKeepsTheBufferAndTheWalk := by
  intro s t hb hw h
  have hm := step_move h
  exact ⟨hm.bufferInv hb, hm.walkInv hb hw⟩

end Sys2Proof.Machine

/-! ## Who writes what (10_state.md, 20_memory.md)

The settings, the last error and the tokens: each from the frame of the step (`Move.session`, `Move.buffer`). -/

namespace Sys2Proof.Machine

/-! ### SPEED and BCAST (R21, R22) -/

/-- Receiving is done at the line, on the next byte of the input (R92). -/
theorem AtLine.mode_eq {s u : State} (h : AtLine s u) : s.mode = .lex .l0 ∨ s.mode = .lex .l1 := by
  cases h with
  | l0 hm => exact .inl hm
  | l1 hm => exact .inr hm

/-- An `Rx()`, with the line start before it, leaves the settings alone. -/
theorem Received.settings {s u v : State} {b : Byte} (h : Received s u b v) :
    v.speed = s.speed ∧ v.palSpeed = s.palSpeed ∧ v.bcast = s.bcast := by
  rw [h.fields, h.atLine.fields]
  exact ⟨rfl, rfl, rfl⟩

theorem Lexed.speed {v t : State} {b : Byte} (h : Lexed v b t) : t.speed = v.speed ∧ t.palSpeed = v.palSpeed := by
  cases h <;> exact ⟨rfl, rfl⟩

/-- Settles O47: of the steps that `Move.session` allows, only `Bus.SetSpeed` and a received `*` are left. -/
theorem onlyCommandsChangeSpeedAndBroadcast : Obligations.OnlyCommandsChangeSpeedAndBroadcast := by
  intro s t h
  cases (step_move h).session with
  | keeps hk => exact ⟨fun hne => absurd hk.speed hne, fun hne => absurd hk.bcast hne⟩
  | @received u v b hr hl =>
    obtain ⟨hspeed, -, hbcast⟩ := hr.settings
    refine ⟨fun hne => absurd (hl.speed.1.trans hspeed) hne, fun hne => ⟨hr.atLine.mode_eq, v.input, ?_⟩⟩
    have hb : b = 0x2A := by
      by_contra hb
      exact hne ((hl.keepsSession hb).bcast.trans hbcast)
    rw [← hb]
    exact hr.input
  | speed hm hs _ hb => exact ⟨fun _ => by rw [hs]; exact hm, fun hne => absurd hb hne⟩

/-! ### LASTERR (R23) -/

theorem CWalked.lasterr {s t : State} (h : CWalked s t) : t.lasterr = s.lasterr := by rw [h.fields]

theorem BWalked.lasterr {s t : State} (h : BWalked s t) : t.lasterr = s.lasterr := by rw [h.fields]

theorem Walked.lasterr {token stop : Mode} {s t : State} (h : Walked token stop s t) : t.lasterr = s.lasterr := by
  rw [h.fields]

theorem Probed.lasterr {s t : State} (h : Probed s t) : t.lasterr = s.lasterr := by rw [h.fields]

theorem Sent.lasterr {s u : State} {r : List Byte} (h : Sent s r u) : u.lasterr = s.lasterr := by rw [h.fields]

/-- A checked walk writes `LASTERR` at its return alone (R160). -/
theorem CheckedMove.lasterr {s t : State} {p : CheckedAt} (h : CheckedMove s p t) :
    t.lasterr = s.lasterr ∨ (p = .release ∨ p = .releaseReset) ∧ t.lasterr = s.lasterr ||| t.err := by
  cases h with
  | addressed _ hw | written _ hw => exact .inl hw.lasterr
  | readEnd hu _ hw => exact .inl (hw.lasterr.trans hu.lasterr)
  | again hu _ => exact .inl hu.lasterr
  | released => exact .inr ⟨.inl rfl, rfl⟩
  | releaseReset => exact .inr ⟨.inr rfl, rfl⟩
  | _ => exact .inl rfl

/-- A Broadcast walk never writes `LASTERR` (R178). -/
theorem BcastMove.lasterr {s t : State} {p : BcastAt} (h : BcastMove s p t) : t.lasterr = s.lasterr := by
  cases h with
  | addressed hw | written _ hw | zero _ _ _ _ _ hw => exact hw.lasterr
  | readEnd hu _ hw => exact hw.lasterr.trans hu.lasterr
  | again hu _ => exact hu.lasterr
  | _ => rfl

/-- A scan writes `LASTERR` at its return alone (R192). -/
theorem ScanMove.lasterr {s t : State} {p : ScanAt} (h : ScanMove s p t) :
    t.lasterr = s.lasterr ∨ (p = .release ∨ p = .releaseReset) ∧ t.lasterr = s.lasterr ||| t.err := by
  cases h with
  | absent _ hp => exact .inl hp.lasterr
  | reported hu hp => exact .inl (hp.lasterr.trans hu.lasterr)
  | released => exact .inr ⟨.inl rfl, rfl⟩
  | releaseReset => exact .inr ⟨.inr rfl, rfl⟩
  | _ => exact .inl rfl

/-- Of the other commands, `^` clears `LASTERR` after its report, and none else writes it (R120). -/
theorem AdminMove.lasterr {s t : State} {p : AdminAt} (h : AdminMove s p t) :
    t.lasterr = s.lasterr ∨ (∃ r, p = .err r) ∧ t.lasterr = 0 := by
  cases h with
  | said _ _ hu | star hu => exact .inl hu.lasterr
  | clear => exact .inr ⟨⟨_, rfl⟩, rfl⟩
  | more | reset | speed => exact .inl rfl

theorem Received.lasterr {s u v : State} {b : Byte} (h : Received s u b v) : v.lasterr = s.lasterr := by
  rw [h.fields, h.atLine.fields]

theorem Lexed.lasterr {v t : State} {b : Byte} (h : Lexed v b t) : t.lasterr = v.lasterr := by
  cases h <;> rfl

/-- Settles O48: by the kind of the step, through the writer lemma of its relation. -/
theorem lastErrorHasThreeWriters : Obligations.LastErrorHasThreeWriters := by
  intro s t h hne
  cases step_move h with
  | waiting hl => exact absurd (by rw [hl.fields]) hne
  | overflow | newLine | resetFailed | fatal => exact absurd rfl hne
  | received hr hl => exact absurd (hl.lasterr.trans hr.lasterr) hne
  | checkedWalk _ _ _ hw => exact absurd hw.lasterr hne
  | bcastWalk _ _ _ hw => exact absurd hw.lasterr hne
  | admin hm _ ha =>
    obtain ⟨⟨r, rfl⟩, hz⟩ := ha.lasterr.resolve_left hne
    exact .inr ⟨⟨r, hm⟩, hz⟩
  | scan hm hs =>
    obtain ⟨rfl | rfl, he⟩ := hs.lasterr.resolve_left hne <;> exact .inl ⟨by simp [hm], he⟩
  | checked hm hc =>
    obtain ⟨rfl | rfl, he⟩ := hc.lasterr.resolve_left hne <;> exact .inl ⟨by simp [hm], he⟩
  | bcast _ hb => exact absurd hb.lasterr hne

/-! ### The tokens (R27, R56) -/

/-- A line start leaves every slot above slot 0 alone (R91). -/
theorem readSlot_startLine (s : State) {a : Nat} (h : a ≠ 0) : readSlot s.startLine.tb a = readSlot s.tb a := by
  rw [State.startLine_tb, readSlot_writeSlot_ne _ _ h]

/-- Settles O49: a step that is no append leaves every slot above slot 0 alone, and an append is at `L0` or `L1` and
writes the slot at the counter. -/
theorem onlyTheLexerWritesTokens : Obligations.OnlyTheLexerWritesTokens := by
  intro s t h a ha
  cases (step_move h).buffer with
  | same ht => rw [ht]; exact ⟨fun _ _ => rfl, fun _ _ _ => rfl, fun _ _ => rfl⟩
  | line ht =>
    have hold : readSlot t.tb a = readSlot s.tb a := by rw [ht, readSlot_writeSlot_ne _ _ ha]
    exact ⟨fun _ _ => hold, fun _ _ _ => hold, fun _ _ => hold⟩
  | append w hl _ hlt ht =>
    cases hl with
    | l1 hm =>
      refine ⟨fun hn => absurd hm hn, fun _ h1 hne => ?_, fun h0 => ?_⟩
      · rw [ht]; exact (appendSlot_spec s.tb w h1 hlt).2.2 a ha hne
      · rw [hm] at h0; cases h0
    | l0 hm =>
      refine ⟨fun _ hn => absurd hm hn, fun h1 => ?_, fun _ hne => ?_⟩
      · rw [hm] at h1; cases h1
      · have hlen := startLine_tbLen s
        have hold := (appendSlot_spec s.startLine.tb w hlen.ge hlt).2.2 a ha (by rw [← hlen] at hne; exact hne)
        rw [ht, hold, readSlot_startLine s ha]

end Sys2Proof.Machine

/-! ## The invariants of 10_state.md

The error result, the bus, the speed, the halt code, the scan counter and the input position. -/

namespace Sys2Proof.Machine

/-! ### ERR (R155) -/

theorem oneFailure_zero : OneFailure 0 := .inl rfl

theorem zero_or_errMask (e : ErrMask) : 0 ||| e = e := BitVec.zero_or

theorem oneFailure_errMask {k : ErrKind} (h : k ∈ abortKinds) : OneFailure (errMask k) := .inr ⟨k, h, rfl⟩

/-- The failure that an abort flags while no bit is set (R154). -/
theorem oneFailure_flag {s : State} (h : s.err = 0) {k : ErrKind} (hk : k ∈ abortKinds) :
    OneFailure (s.flag k).err := by
  rw [State.flag_err, h, zero_or_errMask]
  exact oneFailure_errMask hk

/-- BRO of an expired release on top of one failure at most (R155, R156). -/
theorem OneFailure.or_bro {e : ErrMask} (h : OneFailure e) : WalkResult (e ||| errMask .bro) := by
  rcases h with rfl | ⟨k, hk, rfl⟩
  · rw [zero_or_errMask]
    exact .inl (oneFailure_errMask (by decide))
  · exact .inr ⟨k, hk, rfl⟩

theorem walkResult_zero : WalkResult 0 := .inl oneFailure_zero

theorem readFailure_mem (last : Bool) : readFailure last ∈ abortKinds := by
  cases last <;> decide

/-- Before its abort a checked walk has no error bit. -/
theorem errInv_checked {t : State} {p : CheckedAt} (hm : t.mode = .execChecked p)
    (hp : (p.inToken || p == .timeout) = true) : ErrInv t ↔ t.err = 0 := by
  simp only [ErrInv, hm, hp, if_true]

/-- From its abort on a checked walk has one failure at most. -/
theorem errInv_checked_end {t : State} {p : CheckedAt} (hm : t.mode = .execChecked p)
    (hp : (p.inToken || p == .timeout) = false) : ErrInv t ↔ OneFailure t.err := by
  simp only [ErrInv, hm, hp, Bool.false_eq_true, if_false]

theorem errInv_bcast {t : State} {p : BcastAt} (hm : t.mode = .execBcast p) : ErrInv t ↔ t.err = 0 := by
  simp only [ErrInv, hm]

theorem errInv_lex {t : State} {p : LexAt} (hm : t.mode = .lex p) : ErrInv t ↔ WalkResult t.err := by
  simp only [ErrInv, hm]

theorem errInv_halted {t : State} {c : Nat} (hm : t.mode = .halted c) : ErrInv t ↔ WalkResult t.err := by
  simp only [ErrInv, hm]

/-- In a command other than the scan the result of the last walk stands. -/
theorem errInv_admin {t : State} {p : AdminAt} (hm : t.mode = .adminop p) (hp : ∀ q, p ≠ .scan q) :
    ErrInv t ↔ WalkResult t.err := by
  cases p with
  | scan q => exact absurd rfl (hp q)
  | _ => simp only [ErrInv, hm]

/-- The sub-states of a sweep that goes on. -/
def ScanAt.goesOn : ScanAt → Bool
  | .stop | .release | .releaseReset | .fatal => false
  | _ => true

theorem errInv_scan {t : State} {p : ScanAt} (hm : t.mode = .adminop (.scan p)) (hp : p.goesOn = true) :
    ErrInv t ↔ t.err = 0 := by
  cases p with
  | stop | release | releaseReset | fatal => simp [ScanAt.goesOn] at hp
  | _ => simp only [ErrInv, hm]

theorem errInv_scan_end {t : State} {p : ScanAt} (hm : t.mode = .adminop (.scan p)) (hp : p.goesOn = false) :
    ErrInv t ↔ OneFailure t.err := by
  cases p with
  | stop | release | releaseReset | fatal => simp only [ErrInv, hm]
  | _ => simp [ScanAt.goesOn] at hp

/-- A checked fetch flags NBR or nothing (R148). -/
theorem CWalked.errInv {s t : State} (h : CWalked s t) (he : s.err = 0) : ErrInv t := by
  cases h with
  | stop => exact (errInv_checked_end rfl rfl).2 (.inl he)
  | token | count => exact (errInv_checked rfl rfl).2 he
  | zero => exact (errInv_checked_end rfl rfl).2 (oneFailure_flag he (by decide))

theorem BWalked.errInv {s t : State} (h : BWalked s t) (he : s.err = 0) : ErrInv t := by
  obtain ⟨q, hq⟩ := h.mode
  exact (errInv_bcast hq).2 (by rw [h.fields]; exact he)

theorem inToken_of_wait {p : CheckedAt} (h : p ∈ ([.startWait, .addrWait, .readWait, .writeWait] : List CheckedAt)) :
    p.inToken = true := by
  simp only [List.mem_cons, List.not_mem_nil, or_false] at h
  rcases h with rfl | rfl | rfl | rfl <;> rfl

theorem goesOn_of_wait {p : ScanAt} (h : p ∈ ([.startWait, .addrWait] : List ScanAt)) : p.goesOn = true := by
  simp only [List.mem_cons, List.not_mem_nil, or_false] at h
  rcases h with rfl | rfl <;> rfl

/-- A step of the checked executor: an abort flags one kind, and the cleanup adds at most BRO (R155). -/
theorem CheckedMove.errInv {s t : State} {p : CheckedAt} (h : CheckedMove s p t) (hm : s.mode = .execChecked p)
    (hi : ErrInv s) : ErrInv t := by
  have hrun : (p.inToken || p == .timeout) = true → s.err = 0 := fun hp => (errInv_checked hm hp).1 hi
  have hend : (p.inToken || p == .timeout) = false → OneFailure s.err := fun hp => (errInv_checked_end hm hp).1 hi
  cases h with
  | start hin | count hin | write hin => exact (errInv_checked rfl rfl).2 (hrun (by simp [hin]))
  | startDone | accepted | addr | addrDone | nack | ack | readDone | good | data | more =>
    exact (errInv_checked rfl rfl).2 (hrun rfl)
  | expired hp => exact (errInv_checked rfl rfl).2 (hrun (by simp [inToken_of_wait hp]))
  | addressed _ hw | written _ hw => exact hw.errInv (hrun rfl)
  | readEnd hu _ hw => exact hw.errInv (by rw [hu.fields]; exact hrun rfl)
  | again hu _ => rw [hu.fields]; exact (errInv_checked rfl rfl).2 (hrun rfl)
  | refused | nacked => exact (errInv_checked_end rfl rfl).2 (oneFailure_flag (hrun rfl) (by decide))
  | bad => exact (errInv_checked_end rfl rfl).2 (oneFailure_flag (hrun rfl) (readFailure_mem _))
  | zero hin => exact (errInv_checked_end rfl rfl).2 (oneFailure_flag (hrun (by simp [hin])) (by decide))
  | reset => exact (errInv_checked_end rfl rfl).2 (oneFailure_flag (hrun rfl) (by decide))
  | stop | held => exact (errInv_checked_end rfl rfl).2 (hend rfl)
  | released => exact (errInv_lex rfl).2 (.inl (hend rfl))
  | releaseReset => exact (errInv_lex rfl).2 (hend rfl).or_bro

/-- No step of the Broadcast executor sets an error bit (R178). -/
theorem BcastMove.err {s t : State} {p : BcastAt} (h : BcastMove s p t) : t.err = s.err := by
  cases h with
  | addressed hw | written _ hw | zero _ _ _ _ _ hw => rw [hw.fields] <;> rfl
  | readEnd hu _ hw => rw [hw.fields, hu.fields]
  | again hu _ => rw [hu.fields]
  | _ => rfl

theorem BcastMove.errInv {s t : State} {p : BcastAt} (h : BcastMove s p t) (he : s.err = 0) : ErrInv t := by
  rcases h.mode with ⟨q, hq⟩ | hq
  · exact (errInv_bcast hq).2 (h.err.trans he)
  · exact (errInv_lex hq).2 (by rw [h.err, he]; exact walkResult_zero)

theorem Probed.errInv {s t : State} (h : Probed s t) (he : s.err = 0) : ErrInv t := by
  cases h with
  | stop => exact (errInv_scan_end rfl rfl).2 (.inl he)
  | next => exact (errInv_scan rfl rfl).2 he

/-- A step of the sweep: SF or BRO ends it, and the cleanup adds at most BRO (R187, R191, R192). -/
theorem ScanMove.errInv {s t : State} {p : ScanAt} (h : ScanMove s p t) (hm : s.mode = .adminop (.scan p))
    (hi : ErrInv s) : ErrInv t := by
  have hrun : p.goesOn = true → s.err = 0 := fun hp => (errInv_scan hm hp).1 hi
  have hend : p.goesOn = false → OneFailure s.err := fun hp => (errInv_scan_end hm hp).1 hi
  cases h with
  | start | startDone | addrDone | accepted | addr | found | more => exact (errInv_scan rfl rfl).2 (hrun rfl)
  | expired hp => exact (errInv_scan rfl rfl).2 (hrun (goesOn_of_wait hp))
  | absent _ hp => exact hp.errInv (hrun rfl)
  | reported hu hp => exact hp.errInv (by rw [hu.fields]; exact hrun rfl)
  | refused | reset => exact (errInv_scan_end rfl rfl).2 (oneFailure_flag (hrun rfl) (by decide))
  | stop | held => exact (errInv_scan_end rfl rfl).2 (hend rfl)
  | released => exact (errInv_lex rfl).2 (.inl (hend rfl))
  | releaseReset => exact (errInv_lex rfl).2 (hend rfl).or_bro

theorem AdminMove.err {s t : State} {p : AdminAt} (h : AdminMove s p t) : t.err = s.err := by
  cases h with
  | said _ _ hu | clear hu _ | star hu => rw [hu.fields] <;> rfl
  | more | reset | speed => rfl

theorem AdminMove.errInv {s t : State} {p : AdminAt} (h : AdminMove s p t) (he : WalkResult s.err) : ErrInv t := by
  rcases h.mode with ⟨q, hq, hn⟩ | hq
  · exact (errInv_admin hq hn).2 (h.err ▸ he)
  · exact (errInv_lex hq).2 (h.err ▸ he)

/-- A received byte leaves `ERR` alone, but for `@`, which clears it (R186). -/
theorem Lexed.errInv {v t : State} {b : Byte} (h : Lexed v b t) (hm : v.mode = .lex .l1) (he : WalkResult v.err) :
    ErrInv t := by
  cases h with
  | digit | append | ignore => exact (errInv_lex hm).2 he
  | silent | eol => exact (errInv_lex rfl).2 he
  | scan => exact (errInv_scan rfl rfl).2 rfl
  | command _ p hp =>
    refine (errInv_admin rfl ?_).2 he
    rcases hp with ⟨hp, -⟩ | ⟨u, rfl⟩
    · exact AdminAt.not_scan_of_saying hp
    · exact nofun
  | star m _ hs =>
    rcases hs with rfl | ⟨r, -, rfl⟩
    · exact (errInv_lex rfl).2 he
    · exact (errInv_admin (p := .bcast r) rfl nofun).2 he

theorem Received.err {s u v : State} {b : Byte} (h : Received s u b v) : v.err = s.err := by
  rw [h.fields, h.atLine.fields]

/-- Before the fatal entry of a failed reset `ERR` is as the reset found it (R227). -/
theorem errInv_resetFailed {s : State} (hm : s.mode ∈ resetModes) (h : ErrInv s) :
    ErrInv (s.afterReset.goto s.mode.failed) := by
  simp only [resetModes, List.mem_cons, List.not_mem_nil, or_false] at hm
  rcases hm with hm | hm | hm | hm | hm | hm | hm <;> rw [hm]
  · exact (errInv_checked_end rfl rfl).2 (.inl ((errInv_checked hm rfl).1 h))
  · exact (errInv_checked_end rfl rfl).2 ((errInv_checked_end hm rfl).1 h)
  · exact (errInv_bcast rfl).2 ((errInv_bcast hm).1 h)
  · exact (errInv_bcast rfl).2 ((errInv_bcast hm).1 h)
  · exact (errInv_scan_end rfl rfl).2 (.inl ((errInv_scan hm rfl).1 h))
  · exact (errInv_scan_end rfl rfl).2 ((errInv_scan_end hm rfl).1 h)
  · exact (errInv_admin (p := .errFatal) rfl nofun).2 ((errInv_admin hm nofun).1 h)

/-- The halt takes the result as it stands (R224). -/
theorem errInv_fatal {s : State} (hm : s.mode ∈ fatalModes) (h : ErrInv s) (c : Nat) : ErrInv (s.raiseFatal c) := by
  refine (errInv_halted rfl).2 ?_
  simp only [fatalModes, List.mem_cons, List.not_mem_nil, or_false] at hm
  rcases hm with hm | hm | hm | hm
  · exact .inl ((errInv_checked_end hm rfl).1 h)
  · exact .inl (.inl ((errInv_bcast hm).1 h))
  · exact .inl ((errInv_scan_end hm rfl).1 h)
  · exact (errInv_admin hm nofun).1 h

/-- Settles O56: by the kind of the step. -/
theorem stepKeepsOneFailureAWalk : Obligations.StepKeepsOneFailureAWalk := by
  intro s t hi h
  cases step_move h with
  | waiting hl =>
    refine (errInv_lex hl.mode).2 ?_
    rw [hl.fields]
    rcases hl.mode_eq with hm | hm <;> exact (errInv_lex hm).1 hi
  | overflow hm => exact (errInv_halted rfl).2 ((errInv_lex hm).1 hi)
  | received hr hl =>
    refine hl.errInv hr.mode ?_
    rw [hr.err]
    rcases hr.atLine.mode_eq with hm | hm <;> exact (errInv_lex hm).1 hi
  | newLine hm => exact (errInv_lex rfl).2 ((errInv_lex hm).1 hi)
  | checkedWalk _ _ _ hw => exact hw.errInv rfl
  | bcastWalk _ _ _ hw => exact hw.errInv rfl
  | admin hm hn ha => exact ha.errInv ((errInv_admin hm hn).1 hi)
  | scan hm hs => exact hs.errInv hm hi
  | checked hm hc => exact hc.errInv hm hi
  | bcast hm hb => exact hb.errInv ((errInv_bcast hm).1 hi)
  | resetFailed hm _ => exact errInv_resetFailed hm hi
  | fatal hm => exact errInv_fatal hm hi _

/-! ### The bus (R254) -/

/-- Where the bus may be held nothing is asked. -/
theorem busInv_of_mayHold {t : State} (h : t.mode.mayHold = true) : BusInv t := fun hn => by
  rw [h] at hn; cases hn

/-- A step that keeps a released bus released. -/
theorem busInv_of_released {s t : State} (h : BusInv s) (hm : s.mode.mayHold = false) (ht : t.busHeld = s.busHeld) :
    BusInv t := fun _ => ht.trans (h hm)

theorem mayHold_checked_of_cwalked {s t : State} (h : CWalked s t) : t.mode.mayHold = true := by
  cases h <;> rfl

theorem mayHold_bcast_of_bwalked {s t : State} (h : BWalked s t) : t.mode.mayHold = true := by
  cases h with
  | zero _ _ _ hw => cases hw <;> rfl
  | _ => rfl

/-- The stop releases the bus, and after it a checked walk takes it no more (R156). -/
theorem CheckedMove.busInv {s t : State} {p : CheckedAt} (h : CheckedMove s p t) (hm : s.mode = .execChecked p)
    (hi : BusInv s) : BusInv t := by
  cases h with
  | addressed _ hw | written _ hw | readEnd _ _ hw => exact busInv_of_mayHold (mayHold_checked_of_cwalked hw)
  | stop => exact fun _ => rfl
  | released | held | releaseReset => exact busInv_of_released hi (by rw [hm]; rfl) rfl
  | _ => exact busInv_of_mayHold rfl

@[inherit_doc CheckedMove.busInv]
theorem BcastMove.busInv {s t : State} {p : BcastAt} (h : BcastMove s p t) (hm : s.mode = .execBcast p)
    (hi : BusInv s) : BusInv t := by
  cases h with
  | addressed hw | written _ hw | readEnd _ _ hw => exact busInv_of_mayHold (mayHold_bcast_of_bwalked hw)
  | zero _ _ _ _ _ hw => exact busInv_of_mayHold (by cases hw <;> rfl)
  | stop => exact fun _ => rfl
  | released | held | releaseReset => exact busInv_of_released hi (by rw [hm]; rfl) rfl
  | _ => exact busInv_of_mayHold rfl

/-- The stop releases the bus, and after it a sweep takes it no more (R192). -/
theorem ScanMove.busInv {s t : State} {p : ScanAt} (h : ScanMove s p t) (hm : s.mode = .adminop (.scan p))
    (hi : BusInv s) : BusInv t := by
  cases h with
  | absent _ hp | reported _ hp => exact busInv_of_mayHold (by cases hp <;> rfl)
  | stop => exact fun _ => rfl
  | released | held | releaseReset => exact busInv_of_released hi (by rw [hm]; rfl) rfl
  | _ => exact busInv_of_mayHold rfl

theorem AdminAt.mayHold_of_not_scan {p : AdminAt} (h : ∀ q, p ≠ .scan q) : (Mode.adminop p).mayHold = false := by
  cases p with
  | scan q => exact absurd rfl (h q)
  | _ => rfl

theorem AdminMove.busHeld {s t : State} {p : AdminAt} (h : AdminMove s p t) : t.busHeld = s.busHeld := by
  cases h with
  | said _ _ hu | clear hu _ | star hu => rw [hu.fields] <;> rfl
  | more | reset | speed => rfl

theorem Lexed.busHeld {v t : State} {b : Byte} (h : Lexed v b t) : t.busHeld = v.busHeld := by
  cases h <;> rfl

theorem Received.busHeld {s u v : State} {b : Byte} (h : Received s u b v) : v.busHeld = s.busHeld := by
  rw [h.fields, h.atLine.fields]

/-- The session loop never holds the bus. -/
theorem AtLine.mayHold {s u : State} (h : AtLine s u) : s.mode.mayHold = false := by
  rcases h.mode_eq with hm | hm <;> rw [hm] <;> rfl

/-- A failed reset leaves the bus as it is, before the fatal entry (R227). -/
theorem busInv_resetFailed {s : State} (hm : s.mode ∈ resetModes) (h : BusInv s) :
    BusInv (s.afterReset.goto s.mode.failed) := by
  simp only [resetModes, List.mem_cons, List.not_mem_nil, or_false] at hm
  rcases hm with hm | hm | hm | hm | hm | hm | hm
  case inr.inr.inr.inr.inr.inr => exact busInv_of_released h (by rw [hm]; rfl) rfl
  all_goals exact busInv_of_mayHold (by rw [hm]; rfl)

/-- Settles O57: by the kind of the step. -/
theorem stepKeepsTheBusReleasedBetweenWalks : Obligations.StepKeepsTheBusReleasedBetweenWalks := by
  intro s t hi h
  cases step_move h with
  | waiting hl => exact busInv_of_released hi hl.mayHold (by rw [hl.fields])
  | overflow => exact busInv_of_mayHold rfl
  | received hr hl => exact busInv_of_released hi hr.atLine.mayHold (hl.busHeld.trans hr.busHeld)
  | newLine hm => exact busInv_of_released hi (by rw [hm]; rfl) rfl
  | checkedWalk _ _ _ hw => exact busInv_of_mayHold (mayHold_checked_of_cwalked hw)
  | bcastWalk _ _ _ hw => exact busInv_of_mayHold (mayHold_bcast_of_bwalked hw)
  | admin hm hn ha => exact busInv_of_released hi (by rw [hm]; exact AdminAt.mayHold_of_not_scan hn) ha.busHeld
  | scan hm hs => exact hs.busInv hm hi
  | checked hm hc => exact hc.busInv hm hi
  | bcast hm hb => exact hb.busInv hm hi
  | resetFailed hm _ => exact busInv_resetFailed hm hi
  | fatal => exact busInv_of_mayHold rfl

/-! ### The speed, the halt code, the scan counter and the input position -/

/-- Every step keeps `SPEED` and the PAL's speed equal (R252). -/
theorem Move.speedInv {s t : State} (hm : Move s t) (h : SpeedInv s) : SpeedInv t := by
  cases hm.session with
  | keeps hk => exact hk.palSpeed.trans (h.trans hk.speed.symm)
  | received hr hl =>
    obtain ⟨hs, hp, -⟩ := hr.settings
    exact (hl.speed.2.trans hp).trans (h.trans (hl.speed.1.trans hs).symm)
  | speed _ hs hp => exact hp.trans hs.symm

/-- Every step keeps the input position the number of bytes received (R32). -/
theorem Move.positionInv {s t : State} (hm : Move s t) (h : PositionInv s) : PositionInv t := by
  have h : s.inPos = rxCount s.trace := h
  show t.inPos = rxCount t.trace
  cases hm.session with
  | keeps hk =>
    rcases hk.calls with ht | ⟨e, he, ht⟩
    · rw [hk.inPos, ht, h]
    · rw [hk.inPos, ht, rxCount_append, he, h]; simp
  | received hr hl =>
    obtain ⟨hp, ht⟩ := hl.position
    rw [hp, ht, hr.fields, rxCount_append, h]
    rfl
  | speed _ _ _ _ _ hp ht =>
    rw [hp, ht, rxCount_append, h]
    rfl

/-- The halt is entered with one of the two codes alone (R223). -/
theorem Move.haltInv {s t : State} (hm : Move s t) : HaltInv t := by
  have hne : ∀ {m : Mode}, t.mode = m → (∀ c, m ≠ .halted c) → HaltInv t := fun he hn c hc =>
    absurd (he.symm.trans hc) (hn c)
  cases hm with
  | waiting hl => exact hne hl.mode nofun
  | overflow => rintro c ⟨⟩; exact .inl rfl
  | received hr hl =>
    rcases hl.mode with hq | hq | hq | hq | ⟨q, hq, -⟩
    · exact hne (hq.trans hr.mode) nofun
    all_goals exact hne hq nofun
  | newLine => exact hne rfl nofun
  | checkedWalk _ _ _ hw => obtain ⟨q, hq⟩ := hw.mode; exact hne hq nofun
  | bcastWalk _ _ _ hw => obtain ⟨q, hq⟩ := hw.mode; exact hne hq nofun
  | admin _ _ ha => rcases ha.mode with ⟨q, hq, -⟩ | hq <;> exact hne hq nofun
  | scan _ hs => rcases hs.mode with ⟨q, hq⟩ | hq <;> exact hne hq nofun
  | checked _ hc => rcases hc.mode with ⟨q, hq⟩ | hq <;> exact hne hq nofun
  | bcast _ hb => rcases hb.mode with ⟨q, hq⟩ | hq <;> exact hne hq nofun
  | resetFailed hm _ =>
    simp only [resetModes, List.mem_cons, List.not_mem_nil, or_false] at hm
    rcases hm with hm | hm | hm | hm | hm | hm | hm <;> exact hne (congrArg Mode.failed hm) nofun
  | fatal => rintro c ⟨⟩; exact .inr rfl

/-- Outside a sweep nothing is asked of the scan counter. -/
theorem scanInv_of_not_scan {t : State} (h : ∀ p, t.mode ≠ .adminop (.scan p)) : ScanInv t := by
  unfold ScanInv
  split
  · rename_i p hm; exact absurd hm (h p)
  · trivial

theorem scanInv_of_mode {t : State} {m : Mode} (hm : t.mode = m) (h : ∀ p, m ≠ .adminop (.scan p)) : ScanInv t :=
  scanInv_of_not_scan fun p hp => h p (hm.symm.trans hp)

/-- The sub-states of a sweep that probe an address, in which `A` is below `SCAN_COUNT` (R190). -/
def ScanAt.probing : ScanAt → Bool
  | .timeout | .stop | .release | .releaseReset | .fatal => false
  | _ => true

theorem scanInv_probing {t : State} {p : ScanAt} (hm : t.mode = .adminop (.scan p)) (hp : p.probing = true) :
    ScanInv t ↔ t.aReg.toNat < Config.scanCount := by
  cases p with
  | timeout | stop | release | releaseReset | fatal => simp [ScanAt.probing] at hp
  | _ => simp only [ScanInv, hm]

theorem scanInv_end {t : State} {p : ScanAt} (hm : t.mode = .adminop (.scan p)) (hp : p.probing = false) :
    ScanInv t ↔ t.aReg.toNat ≤ Config.scanCount := by
  cases p with
  | timeout | stop | release | releaseReset | fatal => simp only [ScanInv, hm]
  | _ => simp [ScanAt.probing] at hp

/-- The range of `A` in a sweep, probing or not. -/
theorem scanInv_le {s : State} {p : ScanAt} (hm : s.mode = .adminop (.scan p)) (h : ScanInv s) :
    s.aReg.toNat ≤ Config.scanCount := by
  cases hp : p.probing with
  | true => exact ((scanInv_probing hm hp).1 h).le
  | false => exact (scanInv_end hm hp).1 h

/-- The next address, below `SCAN_COUNT` before (R190). -/
theorem Probed.scanInv {u t : State} {a : Byte} (h : Probed u t) (hu : u.aReg = a + 1)
    (ha : a.toNat < Config.scanCount) : ScanInv t := by
  have hle : u.aReg.toNat ≤ Config.scanCount := by
    have hone : (1 : Byte).toNat = 1 := rfl
    rw [hu, BitVec.toNat_add, hone]
    rcases scanCount_cases with hc | hc <;> omega
  cases h with
  | stop => exact (scanInv_end rfl rfl).2 hle
  | next hne => exact (scanInv_probing rfl rfl).2 (lt_of_le_of_ne hle hne)

/-- A step of the sweep keeps `A` in range. -/
theorem ScanMove.scanInv {s t : State} {p : ScanAt} (h : ScanMove s p t) (hm : s.mode = .adminop (.scan p))
    (hi : ScanInv s) : ScanInv t := by
  have hrun : p.probing = true → s.aReg.toNat < Config.scanCount := fun hp => (scanInv_probing hm hp).1 hi
  have hle := scanInv_le hm hi
  cases h with
  | start | startDone | addrDone | accepted | addr | found | more => exact (scanInv_probing rfl rfl).2 (hrun rfl)
  | absent _ hp => exact hp.scanInv rfl (hrun rfl)
  | reported hu hp => exact hp.scanInv (a := s.aReg) rfl (hrun rfl)
  | expired | refused | reset | stop | held => exact (scanInv_end rfl rfl).2 hle
  | released | releaseReset => exact scanInv_of_mode rfl nofun

theorem Lexed.scanInv {v t : State} {b : Byte} (h : Lexed v b t) (hm : v.mode = .lex .l1) : ScanInv t := by
  cases h with
  | digit | append | ignore => exact scanInv_of_mode hm nofun
  | silent | eol => exact scanInv_of_mode rfl nofun
  | scan =>
    have hpos : (0 : Byte).toNat < Config.scanCount := by
      rcases scanCount_cases with hc | hc <;> rw [hc] <;> decide
    exact (scanInv_probing rfl rfl).2 hpos
  | command _ p hp =>
    rcases hp with ⟨hp, -⟩ | ⟨u, rfl⟩
    · exact scanInv_of_mode rfl fun q hq => AdminAt.not_scan_of_saying hp q (Mode.adminop.inj hq)
    · exact scanInv_of_mode rfl nofun
  | star m _ hs =>
    rcases hs with rfl | ⟨r, -, rfl⟩ <;> exact scanInv_of_mode rfl nofun

/-- Every step keeps the scan counter in range while probing (R190). -/
theorem Move.scanInv {s t : State} (hm : Move s t) (h : ScanInv s) : ScanInv t := by
  cases hm with
  | waiting hl => exact scanInv_of_mode hl.mode nofun
  | overflow | newLine | fatal => exact scanInv_of_mode rfl nofun
  | received hr hl => exact hl.scanInv hr.mode
  | checkedWalk _ _ _ hw => obtain ⟨q, hq⟩ := hw.mode; exact scanInv_of_mode hq nofun
  | bcastWalk _ _ _ hw => obtain ⟨q, hq⟩ := hw.mode; exact scanInv_of_mode hq nofun
  | admin _ _ ha =>
    rcases ha.mode with ⟨q, hq, hn⟩ | hq
    · exact scanInv_of_mode hq fun p hp => hn p (Mode.adminop.inj hp)
    · exact scanInv_of_mode hq nofun
  | scan hm hs => exact hs.scanInv hm h
  | checked _ hc => rcases hc.mode with ⟨q, hq⟩ | hq <;> exact scanInv_of_mode hq nofun
  | bcast _ hb => rcases hb.mode with ⟨q, hq⟩ | hq <;> exact scanInv_of_mode hq nofun
  | resetFailed hm _ =>
    simp only [resetModes, List.mem_cons, List.not_mem_nil, or_false] at hm
    rcases hm with hm | hm | hm | hm | hm | hm | hm
    case inr.inr.inr.inr.inl | inr.inr.inr.inr.inr.inl =>
      have hle := scanInv_le hm h
      exact (scanInv_end (congrArg Mode.failed hm) rfl).2 hle
    all_goals exact scanInv_of_mode (congrArg Mode.failed hm) nofun

/-- Settles O58: the four invariants one by one. -/
theorem stepKeepsSpeedHaltScanAndPosition : Obligations.StepKeepsSpeedHaltScanAndPosition := by
  intro s t hspeed _ hscan hpos h
  have hm := step_move h
  exact ⟨hm.speedInv hspeed, hm.haltInv, hm.scanInv hscan, hm.positionInv hpos⟩

/-- Settles O59: each invariant at the values of the reset table. -/
theorem resetMeetsTheInvariants : Obligations.ResetMeetsTheInvariants := by
  refine ⟨⟨reset_tb_wf, by decide, by decide, fun a h1 hlt => ?_⟩, trivial, ⟨rfl, rfl⟩, ?_, ?_, fun _ => rfl, rfl,
    fun c hc => ?_, trivial, rfl, ?_⟩
  · have hlen : State.reset.tbLen = 1 := rfl
    omega
  · exact ⟨BitVec.getLsbD_zero, BitVec.getLsbD_zero, BitVec.getLsbD_zero, BitVec.getLsbD_zero⟩
  · exact (errInv_lex rfl).2 walkResult_zero
  · cases hc
  · exact nofun

end Sys2Proof.Machine

/-! ## Only the halt stops a step (R54, R55)

Every shared operation answers a next state where what it goes on with does; a walk's fetch does on a buffer of the
invariant, because the token at `I` is a live one. -/

namespace Sys2Proof.Machine

/-- The meaning answers a next state. -/
def Answers (o : Out) : Prop := ∃ t, o = .next t

theorem answers_next (t : State) : Answers (.next t) := ⟨t, rfl⟩

theorem answers_ite {c : Prop} [Decidable c] {x y : Out} (hx : Answers x) (hy : Answers y) :
    Answers (if c then x else y) := by
  split
  · exact hx
  · exact hy

/-! ### The shared operations -/

theorem checkedWait_answers {ok : State → Out} {s : State} (h : Answers (ok s.afterWait)) :
    Answers (checkedWait ok s) := by
  unfold checkedWait
  split
  · exact h
  · exact answers_next _

theorem bcastWait_answers {ok : State → Out} {s : State} (h : Answers (ok s.afterWait)) :
    Answers (bcastWait ok s) := by
  unfold bcastWait
  split
  · exact h
  · exact answers_next _

theorem scanWait_answers (ok : ScanAt) (s : State) : Answers (scanWait ok s) := by
  unfold scanWait
  split <;> exact answers_next _

/-- Sending a text stops nowhere if what follows it does not. -/
theorem sendText_answers {p : List Byte → Mode} {rest : List Byte} {done : State → Out} {s : State}
    (h : ∀ u, Sent s rest u → Answers (done u)) : Answers (sendText p rest done s) := by
  unfold sendText
  split
  · exact h _ .none
  · exact h _ (.last _)
  · exact answers_next _

theorem say_answers (p : List Byte → AdminAt) (rest : List Byte) (s : State) : Answers (say p rest s) :=
  sendText_answers fun _ _ => answers_next _

/-- A fetch at an index of the line is the cleanup or enters a live token (R27, R141). -/
theorem walkFetch_answers {enter : State → Out} {stop : Mode} {s : State} (hb : BufferInv s)
    (h1 : 1 ≤ s.iReg.toNat) (hle : s.iReg.toNat ≤ s.tbLen)
    (he : ∀ w, s.token s.iReg.toNat = some w → Answers (enter { s with tReg := w })) :
    Answers (walkFetch enter stop s) := by
  rcases walkFetch_cases enter stop s with ⟨-, e⟩ | ⟨-, w, hw, e⟩ | ⟨hne, hn, -⟩
  · exact ⟨_, e⟩
  · rw [e]; exact he w hw
  · obtain ⟨-, -, -, htok⟩ := hb
    have hlt : s.iReg.toNat < s.tbLen := lt_of_le_of_ne hle hne
    obtain ⟨w, hw, -⟩ := htok _ h1 hlt
    rw [State.token, if_pos ⟨h1, hlt⟩, hw] at hn
    cases hn

/-- The index after a live one, which lies within the line. -/
theorem iReg_succ_toNat {s : State} (hlt : s.iReg.toNat < s.tbLen) (hcap : s.tbLen ≤ Config.tbCap) :
    (s.iReg + 1).toNat = s.iReg.toNat + 1 := by
  have hcap' : s.tbLen ≤ 260 := hcap
  have hone : (1 : BitVec 9).toNat = 1 := rfl
  rw [BitVec.toNat_add, hone]
  omega

/-- An advance from a live token is a fetch at an index of the line. -/
theorem walkAdvance_answers {enter : State → Out} {stop : Mode} {s : State} (hb : BufferInv s)
    (hlt : s.iReg.toNat < s.tbLen)
    (he : ∀ w, s.token (s.iReg.toNat + 1) = some w → Answers (enter { s with iReg := s.iReg + 1, tReg := w })) :
    Answers (walkAdvance enter stop s) := by
  obtain ⟨-, -, hcap, -⟩ := id hb
  have hi := iReg_succ_toNat hlt hcap
  exact walkFetch_answers (s := { s with iReg := s.iReg + 1 }) hb (by simp only [hi]; omega)
    (by simp only [hi]; exact hlt) (fun w hw => he w (by rw [← hi]; exact hw))

theorem checkedEnter_answers (s : State) : Answers (checkedEnter s) := by
  rcases checkedEnter_cases s with ⟨-, e⟩ | ⟨-, -, e⟩ | ⟨-, -, -, e⟩ <;> exact ⟨_, e⟩

theorem bcastStand_answers {s : State} (hb : BufferInv s) (hlt : s.iReg.toNat < s.tbLen) : Answers (bcastStand s) :=
  walkAdvance_answers hb hlt fun _ _ => answers_next _

/-- Entering a token stops nowhere at a live one: a count of 0 goes on to the next index (R174). -/
theorem bcastEnter_answers {s : State} (hb : BufferInv s) (hlt : s.iReg.toNat < s.tbLen) : Answers (bcastEnter s) := by
  rcases bcastEnter_cases s with ⟨-, e⟩ | ⟨-, -, e⟩ | ⟨-, -, -, e⟩
  · exact ⟨_, e⟩
  · rw [e]; exact bcastStand_answers (s := { s with nReg := s.tReg, rp := false }) hb hlt
  · exact ⟨_, e⟩

theorem checkedAdvance_answers {s : State} (hb : BufferInv s) (hlt : s.iReg.toNat < s.tbLen) :
    Answers (checkedAdvance s) :=
  walkAdvance_answers hb hlt fun _ _ => checkedEnter_answers _

theorem bcastAdvance_answers {s : State} (hb : BufferInv s) (hlt : s.iReg.toNat < s.tbLen) :
    Answers (bcastAdvance s) := by
  obtain ⟨-, -, hcap, -⟩ := id hb
  have hi := iReg_succ_toNat hlt hcap
  refine walkAdvance_answers hb hlt fun w hw => ?_
  obtain ⟨-, hnext, -⟩ := token_eq_some hw
  exact bcastEnter_answers (s := { s with iReg := s.iReg + 1, tReg := w }) hb (by simp only [hi]; exact hnext)

/-! ### The executors -/

theorem checkedCount_answers (n : Word) (s : State) : Answers (checkedCount n s) :=
  answers_ite (answers_next _) (answers_next _)

theorem checkedStart_answers {s : State} (hb : BufferInv s) (hlt : s.iReg.toNat < s.tbLen) (ab : Byte)
    (p : CheckedAt) : Answers (checkedStart ab p s) := by
  cases p with
  | startWait | addrWait => simp only [checkedStart]; exact checkedWait_answers (answers_next _)
  | startStatus => exact answers_ite (answers_next _) (answers_next _)
  | addrStatus =>
    exact answers_ite
      (checkedAdvance_answers (s := { s.afterStatus with rp := readPhase s.statusAnswer }) hb hlt) (answers_next _)
  | _ => exact answers_next _

theorem checkedRead_answers {s : State} (hb : BufferInv s) (hlt : s.iReg.toNat < s.tbLen) (n : Word)
    (p : CheckedAt) : Answers (checkedRead n p s) := by
  cases p with
  | readWait => simp only [checkedRead]; exact checkedWait_answers (answers_next _)
  | readStatus => exact answers_ite (answers_next _) (answers_next _)
  | readReport r =>
    simp only [checkedRead]
    refine sendText_answers fun u hu => ?_
    refine answers_ite ?_ (answers_next _)
    rw [hu.fields]
    exact checkedAdvance_answers (BufferInv.of_tb_eq hb rfl) hlt
  | readCall | readData => exact answers_next _
  | _ => exact checkedCount_answers n s

theorem checkedWrite_answers {s : State} (hb : BufferInv s) (hlt : s.iReg.toNat < s.tbLen) (v : Word)
    (p : CheckedAt) : Answers (checkedWrite v p s) := by
  cases p with
  | writeWait => exact checkedWait_answers (checkedAdvance_answers (s := s.afterWait) hb hlt)
  | _ => exact answers_next _

theorem bcastCount_answers {s : State} (hb : BufferInv s) (hlt : s.iReg.toNat < s.tbLen) (n : Word) :
    Answers (bcastCount n s) :=
  answers_ite (bcastStand_answers (s := { s with nReg := n, rp := false }) hb hlt) (answers_next _)

theorem bcastStart_answers {s : State} (hb : BufferInv s) (hlt : s.iReg.toNat < s.tbLen) (ab : Byte)
    (p : BcastAt) : Answers (bcastStart ab p s) := by
  cases p with
  | startWait | addrWait => simp only [bcastStart]; exact bcastWait_answers (answers_next _)
  | addrStatus => exact bcastAdvance_answers (s := { s.afterStatus with rp := readPhase s.statusAnswer }) hb hlt
  | _ => exact answers_next _

theorem bcastRead_answers {s : State} (hb : BufferInv s) (hlt : s.iReg.toNat < s.tbLen) (n : Word)
    (p : BcastAt) : Answers (bcastRead n p s) := by
  cases p with
  | readWait => simp only [bcastRead]; exact bcastWait_answers (answers_next _)
  | readReport r =>
    simp only [bcastRead]
    refine sendText_answers fun u hu => ?_
    refine answers_ite ?_ (answers_next _)
    rw [hu.fields]
    exact bcastAdvance_answers (BufferInv.of_tb_eq hb rfl) hlt
  | readCall | readData => exact answers_next _
  | _ => exact bcastCount_answers hb hlt n

theorem bcastWrite_answers {s : State} (hb : BufferInv s) (hlt : s.iReg.toNat < s.tbLen) (v : Word)
    (p : BcastAt) : Answers (bcastWrite v p s) := by
  cases p with
  | writeWait => exact bcastWait_answers (bcastAdvance_answers (s := s.afterWait) hb hlt)
  | _ => exact answers_next _

/-! ### The lexer, the commands and the end of a line -/

theorem appendToken_answers {s : State} (h : s.tbLen < Config.tbCap) (v : Word) : Answers (appendToken v s) := by
  rw [appendToken, if_pos h]
  exact answers_next _

/-- The start of a command at the line stops nowhere. -/
theorem exec_char_answers {v : State} (hm : v.mode = .lex .l1) (hl : v.tbLen < Config.tbCap) (b : Byte) :
    Answers (exec (decodeChar b) v) := by
  have hc := decodeChar_isChar b
  cases hi : decodeChar b <;> rw [hi] at hc
  case tSw | tSr | tData | tBlk | tPec => exact appendToken_answers hl _
  case aScan | aSpeed | aErr | aBcast | aHelp | aHelpLc | aIdent | aIdentLc | aStd | aStdLc | aFast | aFastLc | aVslow |
      aVslowLc | eol =>
    simp only [exec, execAScan, execASpeed, execAErr, execABcast, execAHelp, execAHelpLc, helpCommand, execAIdent,
      execAIdentLc, identCommand, execAStd, execAStdLc, execAFast, execAFastLc, execAVslow, execAVslowLc, speedCommand,
      execEol, hm]
    exact answers_next _
  case startW | startR | readCount | dataWrite => simp [Instr.charClass] at hc
  all_goals exact answers_next _

theorem scanCall_answers (p : ScanAt) (s : State) : Answers (scanCall p s) := by
  cases p with
  | startWait | addrWait => exact scanWait_answers _ _
  | startStatus | addrStatus => exact answers_ite (answers_next _) (answers_next _)
  | report r => simp only [scanCall]; exact sendText_answers fun _ _ => answers_next _
  | timeout | releaseReset => simp only [scanCall]; exact busReset_total _ _ _
  | release => simp only [scanCall]; split <;> exact answers_next _
  | start | addr | stop | fatal => exact answers_next _

theorem speedCommand_answers (u : SpeedTier) (s : State) : Answers (speedCommand u s) := by
  unfold speedCommand
  split
  · exact answers_next _
  · exact say_answers _ _ _
  · exact answers_next _

/-- A command's step stops nowhere. -/
theorem exec_admin_answers {p : AdminAt} {s : State} (hm : s.mode = .adminop p) : Answers (exec p.instr s) := by
  cases p with
  | scan q => simp only [AdminAt.instr, exec, execAScan, hm]; exact scanCall_answers q s
  | speed r => simp only [AdminAt.instr, exec, execASpeed, hm]; exact say_answers _ _ _
  | help r => simp only [AdminAt.instr, exec, execAHelp, helpCommand, hm]; exact say_answers _ _ _
  | ident r => simp only [AdminAt.instr, exec, execAIdent, identCommand, hm]; exact say_answers _ _ _
  | err r =>
    simp only [AdminAt.instr, exec, execAErr, hm]
    exact sendText_answers fun _ _ => answers_ite (answers_next _) (answers_next _)
  | errReset => simp only [AdminAt.instr, exec, execAErr, hm]; exact busReset_total _ _ _
  | errFatal => simp only [AdminAt.instr, exec, execAErr, hm]; exact answers_next _
  | bcast r =>
    simp only [AdminAt.instr, exec, execABcast, hm]
    exact sendText_answers fun _ _ => answers_next _
  | setSpeed u | speedReply u r => cases u <;> exact speedCommand_answers _ s

theorem execEol_answers_checked {p : CheckedAt} {s : State} (hm : s.mode = .execChecked p)
    (hp : p.inToken = false) : Answers (exec .eol s) := by
  cases p with
  | timeout | releaseReset => simp only [exec, execEol, hm]; exact busReset_total _ _ _
  | release => simp only [exec, execEol, hm, checkedRelease]; split <;> exact answers_next _
  | stop | fatal => simp only [exec, execEol, hm]; exact answers_next _
  | _ => simp [CheckedAt.inToken] at hp

theorem execEol_answers_bcast {p : BcastAt} {s : State} (hm : s.mode = .execBcast p)
    (hp : p.inToken = false) : Answers (exec .eol s) := by
  cases p with
  | timeout | releaseReset => simp only [exec, execEol, hm]; exact busReset_total _ _ _
  | release => simp only [exec, execEol, hm, bcastRelease]; split <;> exact answers_next _
  | stop | fatal => simp only [exec, execEol, hm]; exact answers_next _
  | _ => simp [BcastAt.inToken] at hp

/-! ### The step -/

/-- The token of a walk is a live one. -/
theorem TokenInv.iReg_lt {s : State} (h : TokenInv s) : s.iReg.toNat < s.tbLen := (token_eq_some h).2.1

theorem receive_answers {s u : State} (hl : AtLine s u) (hb : BufferInv s) : Answers u.receive.out := by
  obtain ⟨-, -, hle, -⟩ := hl.bufferInv hb
  unfold State.receive
  split
  · exact answers_next _
  · rename_i hne
    split
    · exact answers_next _
    · rename_i b rest _
      exact exec_char_answers (v := u.rx b rest) hl.mode (lt_of_le_of_ne hle hne) b

theorem dispatchLine_answers {s : State} (hb : BufferInv s) : Answers (dispatchLine s) := by
  have h1 : 1 ≤ s.tbLen := hb.2.1
  have hone : (1 : BitVec 9).toNat = 1 := rfl
  refine answers_ite (answers_next _) (answers_ite ?_ ?_)
  · refine walkFetch_answers (s := { s with err := 0, iReg := 1, rp := false }) hb hone.ge h1 fun w hw => ?_
    exact bcastEnter_answers (s := { s with err := 0, iReg := 1, rp := false, tReg := w }) hb (token_eq_some hw).2.1
  · exact walkFetch_answers (s := { s with err := 0, iReg := 1, rp := false }) hb hone.ge h1 fun _ _ =>
      checkedEnter_answers _

theorem step_checked_answers {s : State} {p : CheckedAt} (hm : s.mode = .execChecked p) (hb : BufferInv s)
    (hw : WalkInv s) : Answers (step s) := by
  cases hp : p.inToken with
  | false => rw [step_checked_end hm hp]; exact execEol_answers_checked hm hp
  | true =>
    have hlt := (tokenInv_of_checkedInToken (walkInv_of_checked hm hw).2 hp).iReg_lt
    rw [step_checked_token hm hp]
    exact answers_ite (answers_ite (checkedRead_answers hb hlt _ _) (checkedWrite_answers hb hlt _ _))
      (checkedStart_answers hb hlt _ _)

theorem step_bcast_answers {s : State} {p : BcastAt} (hm : s.mode = .execBcast p) (hb : BufferInv s)
    (hw : WalkInv s) : Answers (step s) := by
  cases hp : p.inToken with
  | false => rw [step_bcast_end hm hp]; exact execEol_answers_bcast hm hp
  | true =>
    have hlt := (tokenInv_of_bcastInToken (walkInv_of_bcast hm hw).2 hp).iReg_lt
    rw [step_bcast_token hm hp]
    exact answers_ite (answers_ite (bcastRead_answers hb hlt _ _) (bcastWrite_answers hb hlt _ _))
      (bcastStart_answers hb hlt _ _)

/-- Settles O53: by the mode; in a walk, because its token is live. -/
theorem onlyTheHaltStopsAStep : Obligations.OnlyTheHaltStopsAStep := by
  intro s hb hw
  cases hm : s.mode with
  | halted c => exact .inr ⟨c, rfl, step_halted hm⟩
  | lex p =>
    left
    cases p with
    | l0 => rw [step_lex0 hm]; exact receive_answers (.l0 hm) hb
    | l1 => rw [step_lex1 hm]; exact receive_answers (.l1 hm) hb
    | ld => rw [step_ld hm]; exact dispatchLine_answers hb
  | adminop p => left; rw [step_admin hm]; exact exec_admin_answers hm
  | execChecked p => exact .inl (step_checked_answers hm hb hw)
  | execBcast p => exact .inl (step_bcast_answers hm hb hw)

end Sys2Proof.Machine

/-! ## The step, the reset and the lexer (40_lexer.md) -/

namespace Sys2Proof.Machine

/-! ### What the coming step runs (R31, R90) -/

/-- At `L1`, below the capacity, the step receives the next byte and runs what it decodes to (R92 to R94). -/
theorem step_receive {s : State} {b : Byte} {rest : List Byte} (hm : s.mode = .lex .l1) (hl : s.tbLen ≠ Config.tbCap)
    (hi : s.input = b :: rest) : step s = exec (decodeChar b) (s.rx b rest) := by
  rw [step_lex1 hm, State.receive, if_neg hl, hi]
  rfl

/-- At `L0` the line start comes first (R90). -/
theorem step_receive_first {s : State} {b : Byte} {rest : List Byte} (hm : s.mode = .lex .l0)
    (hi : s.input = b :: rest) : step s = exec (decodeChar b) (s.startLine.rx b rest) := by
  have hl : s.startLine.tbLen ≠ Config.tbCap := by rw [startLine_tbLen]; decide
  rw [step_lex0 hm, State.receive, if_neg hl, State.startLine_input, hi]
  rfl

/-- Settles O7, mode by mode. -/
theorem stepRunsTheDecodedInstruction : Obligations.StepRunsTheDecodedInstruction := by
  refine fun s => ⟨fun b rest hm hl hi => step_receive hm hl hi, fun b rest hm hi => step_receive_first hm hi,
    fun hm => ?_, fun p hm => step_admin hm, fun p hm => ?_, fun p hm => ?_⟩
  · rw [step_ld hm, exec, execEol, hm]
  · split
    · rename_i hp; exact step_checked hm hp
    · rename_i hp; exact step_checked_end hm (by simpa using hp)
  · split
    · rename_i hp; exact step_bcast hm hp
    · rename_i hp; exact step_bcast_end hm (by simpa using hp)

/-- Settles O10: the fatal entry by its definition, the halt by the step in `HALTED`. -/
theorem haltedIsFinal : Obligations.HaltedIsFinal :=
  fun _ _ => ⟨rfl, step_halted⟩

/-- Settles O11, row by row. -/
theorem resetTableHolds : Obligations.ResetTableHolds :=
  ⟨rfl, rfl, rfl, rfl, rfl, rfl, rfl, rfl, rfl, rfl⟩

/-! ### Hex digits (R95) -/

/-- A digit's instruction accumulates its value. -/
theorem exec_digit {i : Instr} {d : BitVec 4} (h : i.charClass = some (.hex d)) (s : State) :
    exec i s = pushDigit (d.setWidth 8) s := by
  cases i <;> cases h <;> rfl

/-- `ACC*16 + d mod 256`, as a number (R95). -/
theorem accPush_toNat (acc d : Byte) : (accPush acc d).toNat = (acc.toNat * 16 + d.toNat) % 256 := by
  have h16 : (16 : Byte).toNat = 16 := rfl
  rw [accPush, BitVec.toNat_add, BitVec.toNat_mul, h16]
  omega

/-- Settles O13: every listed instruction is of the class of its digit. -/
theorem hexDigitsAccumulate : Obligations.HexDigitsAccumulate := by
  unfold Obligations.HexDigitsAccumulate
  intro p hp s
  have hclass : p.1.charClass = some (.hex (BitVec.ofNat 4 p.2)) ∧ p.2 < 16 := by
    revert p; decide
  obtain ⟨hc, hlt⟩ := hclass
  refine ⟨_, exec_digit hc s, ?_, rfl⟩
  have hd : ((BitVec.ofNat 4 p.2).setWidth 8).toNat = p.2 := by
    rw [BitVec.toNat_setWidth, BitVec.toNat_ofNat]; omega
  rw [accPush_toNat, hd]

/-! ### Terminators (R97 to R102) -/

/-- A full buffer halts before the next byte (R103). -/
theorem step_full {t : State} (hm : t.mode = .lex .l1) (hl : t.tbLen = Config.tbCap) :
    step t = .next (t.raiseFatal Config.fatalOverflow) := by
  rw [step_lex1 hm, State.receive, if_pos hl]
  rfl

/-- All that a terminator does below the capacity, and the halt it leads to at slot 259. -/
theorem appendToken_spec (w : Word) (s : State) (h1 : 1 ≤ s.tbLen) (hl : s.tbLen < 260) :
    ∃ t, appendToken w s = .next t ∧ readSlot t.tb s.tbLen = some w ∧ t.tbLen = s.tbLen + 1 ∧
      (∀ a, a ≠ 0 → a ≠ s.tbLen → readSlot t.tb a = readSlot s.tb a) ∧ t = { s with tb := t.tb, acc := 0 } ∧
      (s.tbLen = 259 → s.mode = .lex .l1 → step t = .next (t.raiseFatal Config.fatalOverflow)) := by
  obtain ⟨hlen, hnew, hold⟩ := appendSlot_spec s.tb w h1 hl
  refine ⟨{ s with tb := appendSlot s.tb w, acc := 0 }, if_pos hl, hnew, hlen, hold, rfl, fun h259 hm => ?_⟩
  exact step_full hm (hlen.trans (congrArg (· + 1) h259))

/-- The value of a start token (R70). -/
theorem startToken_toNat (acc : Byte) (d : Bool) :
    (startToken acc d).toNat = 1000 + (2 * (acc.toNat % 128) + d.toNat) := by
  have hd : ((BitVec.ofBool d).setWidth 16 : Word).toNat = d.toNat := by cases d <;> rfl
  have hd2 : d.toNat < 2 ^ 1 := by cases d <;> decide
  have ha : ((acc.setWidth 7 : Address).setWidth 16 <<< 1 : Word).toNat = (acc.toNat % 128) <<< 1 := by
    rw [BitVec.toNat_shiftLeft, BitVec.toNat_setWidth, BitVec.toNat_setWidth, Nat.shiftLeft_eq, Nat.shiftLeft_eq]
    omega
  have hor : ((acc.setWidth 7 : Address).setWidth 16 <<< 1 ||| (BitVec.ofBool d).setWidth 16 : Word).toNat =
      2 * (acc.toNat % 128) + d.toNat := by
    rw [BitVec.toNat_or, ha, hd, ← Nat.shiftLeft_add_eq_or_of_lt hd2 (acc.toNat % 128), Nat.shiftLeft_eq]
    omega
  have hbase : (BitVec.ofNat 16 Config.startBase).toNat = 1000 := rfl
  have hsum := BitVec.toNat_add (BitVec.ofNat 16 Config.startBase)
    ((acc.setWidth 7 : Address).setWidth 16 <<< 1 ||| (BitVec.ofBool d).setWidth 16)
  rw [hbase, hor] at hsum
  refine hsum.trans (Nat.mod_eq_of_lt ?_)
  omega

/-- The value of a data token: not reduced (R72). -/
theorem dataToken_toNat (acc : Byte) {ofs : Word} (h : ofs.toNat ≤ 2) :
    (dataToken acc ofs).toNat = acc.toNat + ofs.toNat := by
  have := acc.isLt
  rw [dataToken, BitVec.toNat_add, BitVec.toNat_setWidth]
  omega

/-- Settles O14, from `appendToken_spec` and the value of a start token. -/
theorem startTerminatorsStoreTheirToken : Obligations.StartTerminatorsStoreTheirToken := by
  unfold Obligations.StartTerminatorsStoreTheirToken
  intro p hp s h1 hl
  simp only [List.mem_cons, List.not_mem_nil, or_false] at hp
  rcases hp with rfl | rfl
  · obtain ⟨t, ht, h⟩ := appendToken_spec (startToken s.acc false) s h1 hl
    exact ⟨t, _, ht, startToken_toNat s.acc false, h⟩
  · obtain ⟨t, ht, h⟩ := appendToken_spec (startToken s.acc true) s h1 hl
    exact ⟨t, _, ht, startToken_toNat s.acc true, h⟩

/-- Settles O15, from `appendToken_spec` and the value of a data token. -/
theorem dataTerminatorsStoreTheirToken : Obligations.DataTerminatorsStoreTheirToken := by
  unfold Obligations.DataTerminatorsStoreTheirToken
  intro p hp s h1 hl
  simp only [List.mem_cons, List.not_mem_nil, or_false] at hp
  rcases hp with rfl | rfl | rfl
  · obtain ⟨t, ht, h⟩ := appendToken_spec (dataToken s.acc 0) s h1 hl
    exact ⟨t, _, ht, dataToken_toNat s.acc (by decide), h⟩
  · obtain ⟨t, ht, h⟩ := appendToken_spec (dataToken s.acc Config.ofsBlock) s h1 hl
    exact ⟨t, _, ht, dataToken_toNat s.acc (by decide), h⟩
  · obtain ⟨t, ht, h⟩ := appendToken_spec (dataToken s.acc Config.ofsPec) s h1 hl
    exact ⟨t, _, ht, dataToken_toNat s.acc (by decide), h⟩

/-- An append at the capacity or past it faults (log 6). -/
theorem appendToken_full (w : Word) {s : State} (h : 260 ≤ s.tbLen) :
    appendToken w s = .fault (.slotOutOfRange s.tbLen) :=
  if_neg (Nat.not_lt.2 h)

/-- Settles O16: each of the five is an append. -/
theorem appendPastTheLastSlotFaults : Obligations.AppendPastTheLastSlotFaults := by
  intro i hi s h
  simp only [List.mem_cons, List.not_mem_nil, or_false] at hi
  rcases hi with rfl | rfl | rfl | rfl | rfl <;> exact appendToken_full _ h

/-! ### The dispatch at the end of a line (R106) -/

/-- At `LD` the end-of-line instruction is the dispatch. -/
theorem execEol_ld {s : State} (hm : s.mode = .lex .ld) : exec .eol s = dispatchLine s := by
  rw [exec, execEol, hm]

/-- A live slot's word is its token. -/
theorem token_eq {s : State} {a : Nat} {w : Word} (h1 : 1 ≤ a) (hl : a < s.tbLen) (hw : readSlot s.tb a = some w) :
    s.token a = some w := by
  rw [State.token, if_pos ⟨h1, hl⟩, hw]

/-- A fetch at the end of the line goes to the cleanup (R141). -/
theorem walkFetch_end {enter : State → Out} {stop : Mode} {s : State} (h : s.iReg.toNat = s.tbLen) :
    walkFetch enter stop s = .next (s.goto stop) := if_pos h

/-- A fetch of a live slot enters its token (R141). -/
theorem walkFetch_live {enter : State → Out} {stop : Mode} {s : State} {w : Word} (h1 : 1 ≤ s.iReg.toNat)
    (hl : s.iReg.toNat < s.tbLen) (hw : readSlot s.tb s.iReg.toNat = some w) :
    walkFetch enter stop s = enter { s with tReg := w } := by
  rw [walkFetch, if_neg hl.ne, token_eq h1 hl hw]

/-- A token that is no read-count is entered before its first call (R142). -/
theorem enterToken_stand {token : Mode} {count : Word → State → Out} {s : State}
    (h : s.rp = false ∨ Config.startBase ≤ s.tReg.toNat) : enterToken token count s = .next (s.goto token) := by
  refine if_neg fun ⟨hr, hl⟩ => ?_
  rcases h with h | h
  · rw [hr] at h; cases h
  · omega

/-- A read-count is entered with its count test (R142, R148). -/
theorem enterToken_count {token : Mode} {count : Word → State → Out} {s : State} (hr : s.rp = true)
    (hl : s.tReg.toNat < Config.startBase) : enterToken token count s = count s.tReg s := if_pos ⟨hr, hl⟩

/-- The checked executor stands before the first call of a token that is no read-count (R142). -/
theorem checkedEnter_stand {s : State} (h : s.rp = false ∨ Config.startBase ≤ s.tReg.toNat) :
    checkedEnter s = .next (s.goto (.execChecked .token)) := enterToken_stand h

/-- The Broadcast executor stands before the first call of a token that is no read-count (R172, R175). -/
theorem bcastEnter_stand {s : State} (h : s.rp = false ∨ Config.startBase ≤ s.tReg.toNat) :
    bcastEnter s = .next (s.goto (.execBcast .token)) := enterToken_stand h

/-- The state in which a walk of either executor begins (R29, R141, R171; log 9). -/
def State.atWalk (s : State) : State := { s with err := 0, iReg := 1, rp := false }

theorem checkedEntry_eq (s : State) : checkedEntry s = walkFetch checkedEnter (.execChecked .stop) s.atWalk := rfl

theorem bcastEntry_eq (s : State) : bcastEntry s = walkFetch bcastEnter (.execBcast .stop) s.atWalk := rfl

/-- A line without an administrative command runs the executor that `BCAST` selects. -/
theorem dispatchLine_walk {s : State} (ha : s.admin = false) :
    dispatchLine s = if s.bcast then bcastEntry s else checkedEntry s := by
  rw [dispatchLine, if_neg (by simp [ha])]

/-- Settles O19: the walk is entered in no read phase, so its first token stands before its first call. -/
theorem dispatchSelectsTheExecutor : Obligations.DispatchSelectsTheExecutor := by
  intro s hm
  rw [execEol_ld hm]
  refine ⟨fun ha => ?_, fun ha hl => ?_, fun w ha hl hw => ?_⟩
  · exact ⟨s.startLine, if_pos ha, startLine_tbLen s, fun a h0 => readSlot_startLine s h0, rfl⟩
  · have hend : s.atWalk.iReg.toNat = s.atWalk.tbLen := hl.symm
    rw [dispatchLine_walk ha, bcastEntry_eq, checkedEntry_eq, walkFetch_end hend, walkFetch_end hend]
    split <;> rfl
  · have hone : 1 ≤ s.atWalk.iReg.toNat := le_refl 1
    have hlt : s.atWalk.iReg.toNat < s.atWalk.tbLen := hl
    rw [dispatchLine_walk ha, bcastEntry_eq, checkedEntry_eq, walkFetch_live hone hlt hw, walkFetch_live hone hlt hw,
      bcastEnter_stand (.inl rfl), checkedEnter_stand (.inl rfl)]
    split <;> rfl

/-! ### A whole bus line (R105, R108) -/

/-- The decoder agrees with folding first and classifying then (R63, R64). -/
theorem decodeChar_charClass (b : Byte) : (decodeChar b).charClass = some (classOf (fold b)) := by
  revert b; decide

/-- The token a terminator of this class builds from the accumulator (R97 to R101). -/
def terminatorToken (acc : Byte) : CharClass → Option Word
  | .tSw => some (startToken acc false)
  | .tSr => some (startToken acc true)
  | .tData => some (dataToken acc 0)
  | .tBlk => some (dataToken acc Config.ofsBlock)
  | .tPec => some (dataToken acc Config.ofsPec)
  | _ => none

/-- A terminator's instruction appends its token. -/
theorem exec_terminator {i : Instr} {c : CharClass} {w : Word} {v : State} (hi : i.charClass = some c)
    (hw : terminatorToken v.acc c = some w) : exec i v = appendToken w v := by
  cases i with
  | tSw | tSr | tData | tBlk | tPec => cases hi; cases hw; rfl
  | _ => cases hi <;> cases hw

/-- An ignored byte's instruction changes nothing (R104). -/
theorem exec_ignore {i : Instr} (hi : i.charClass = some .ignore) (v : State) : exec i v = .next v := by
  cases i with
  | ignore => rfl
  | _ => cases hi

/-- What a byte of a bus line does: it changes the accumulator alone, or it is a terminator, and the line's words are
those of the rest, with the terminator's before them. -/
theorem busByte_cases {b : Byte} (h : busByte b = true) (v : State) :
    (∃ a, exec (decodeChar b) v = .next { v with acc := a } ∧ ∀ l, lineTokens v.acc (b :: l) = lineTokens a l) ∨
      ∃ w, exec (decodeChar b) v = appendToken w v ∧ ∀ l, lineTokens v.acc (b :: l) = w :: lineTokens 0 l := by
  have hd := decodeChar_charClass b
  cases hc : classOf (fold b) <;> rw [hc] at hd
  case hex d =>
    exact .inl ⟨_, exec_digit hd v, fun l => by rw [lineTokens, hc]⟩
  case ignore =>
    exact .inl ⟨v.acc, exec_ignore hd v, fun l => by rw [lineTokens, hc]⟩
  case tSw | tSr | tData | tBlk | tPec =>
    exact .inr ⟨_, exec_terminator hd rfl, fun l => by rw [lineTokens, hc]⟩
  all_goals simp [busByte, hc] at h

/-- `t` is where the bus line `l` leads from `s`, with `rest` still to come: its words stand in the slots from `TB[0]`
on, and nothing else has changed but the accumulator and the record of the bytes. -/
structure LineStored (s : State) (l rest : List Byte) (t : State) : Prop where
  reaches : Reaches l.length s t
  mode : t.mode = .lex .l1
  input : t.input = rest
  inPos : t.inPos = s.inPos + l.length
  length : t.tbLen = s.tbLen + (lineTokens s.acc l).length
  words : ∀ j w, (lineTokens s.acc l)[j]? = some w → readSlot t.tb (s.tbLen + j) = some w
  earlier : ∀ a, a ≠ 0 → a < s.tbLen → readSlot t.tb a = readSlot s.tb a
  frame : t = { s with acc := t.acc, tb := t.tb, input := t.input, inPos := t.inPos,
                       trace := s.trace ++ l.map Event.rx }

/-- The empty line stores nothing. -/
theorem lineStored_nil {s : State} (hm : s.mode = .lex .l1) : LineStored s [] s.input s where
  reaches := rfl
  mode := hm
  input := rfl
  inPos := rfl
  length := rfl
  words := nofun
  earlier _ _ _ := rfl
  frame := by simp

/-- A first byte that changes the accumulator alone. -/
theorem LineStored.cons_acc {s t : State} {b a : Byte} {l rest : List Byte}
    (hs : step s = .next { s.rx b (l ++ rest) with acc := a })
    (hl : lineTokens s.acc (b :: l) = lineTokens a l)
    (h : LineStored { s.rx b (l ++ rest) with acc := a } l rest t) : LineStored s (b :: l) rest t where
  reaches := reaches_succ hs h.reaches
  mode := h.mode
  input := h.input
  inPos := h.inPos.trans (by simp only [State.rx_inPos, List.length_cons]; omega)
  length := by rw [hl]; exact h.length
  words := by rw [hl]; exact h.words
  earlier := h.earlier
  frame := h.frame.trans (by simp [State.rx])

/-- A first byte that is a terminator with the token `w`. -/
theorem LineStored.cons_token {s t u : State} {b : Byte} {w : Word} {l rest : List Byte} (h1 : 1 ≤ s.tbLen)
    (hs : step s = .next u) (hl : lineTokens s.acc (b :: l) = w :: lineTokens 0 l)
    (hnew : readSlot u.tb s.tbLen = some w) (hlen : u.tbLen = s.tbLen + 1)
    (hold : ∀ a, a ≠ 0 → a ≠ s.tbLen → readSlot u.tb a = readSlot s.tb a)
    (hu : u = { s.rx b (l ++ rest) with tb := u.tb, acc := 0 }) (h : LineStored u l rest t) :
    LineStored s (b :: l) rest t := by
  have hacc : u.acc = 0 := by rw [hu]
  have hpos : u.inPos = s.inPos + 1 := by rw [hu, State.rx_inPos]
  have hwords := h.words
  have hlength := h.length
  rw [hacc] at hwords hlength
  refine ⟨reaches_succ hs h.reaches, h.mode, h.input, ?_, ?_, fun j x hj => ?_, fun a h0 hlt => ?_, ?_⟩
  · rw [h.inPos, hpos, List.length_cons]; omega
  · rw [hlength, hlen, hl, List.length_cons]; omega
  · rw [hl] at hj
    cases j with
    | zero =>
      obtain rfl : w = x := by simpa using hj
      exact (h.earlier _ (by omega) (by omega)).trans hnew
    | succ j =>
      have hx := hwords j x (by simpa using hj)
      rwa [hlen, Nat.add_assoc, Nat.add_comm 1] at hx
  · rw [h.earlier a h0 (by omega), hold a h0 (by omega)]
  · refine h.frame.trans ?_
    rw [hu]
    simp [State.rx]

/-- A bus line that fits is stored (R105, R108), by induction on the line. -/
theorem lineStored_exists (l rest : List Byte) (s : State) (hm : s.mode = .lex .l1) (h1 : 1 ≤ s.tbLen)
    (hi : s.input = l ++ rest) (hb : ∀ b ∈ l, busByte b = true)
    (hfit : s.tbLen + (lineTokens s.acc l).length < 260) : ∃ t, LineStored s l rest t := by
  induction l generalizing s with
  | nil =>
    obtain rfl : s.input = rest := hi
    exact ⟨s, lineStored_nil hm⟩
  | cons b l ih =>
    have hbl : ∀ x ∈ l, busByte x = true := fun x hx => hb x (List.mem_cons_of_mem b hx)
    have hcap : s.tbLen < 260 := by omega
    have hrun : step s = exec (decodeChar b) (s.rx b (l ++ rest)) := step_receive hm hcap.ne hi
    rcases busByte_cases (hb b List.mem_cons_self) (s.rx b (l ++ rest)) with ⟨a, he, hl⟩ | ⟨w, he, hl⟩
    · rw [he] at hrun
      have hl : lineTokens s.acc (b :: l) = lineTokens a l := hl l
      rw [hl] at hfit
      obtain ⟨t, ht⟩ := ih { s.rx b (l ++ rest) with acc := a } hm h1 rfl hbl hfit
      exact ⟨t, .cons_acc hrun hl ht⟩
    · have hl : lineTokens s.acc (b :: l) = w :: lineTokens 0 l := hl l
      rw [hl, List.length_cons] at hfit
      obtain ⟨u, hu, hnew, hlen, hold, huf, -⟩ := appendToken_spec w (s.rx b (l ++ rest)) h1 hcap
      rw [he, hu] at hrun
      have hlen : u.tbLen = s.tbLen + 1 := hlen
      have hacc : u.acc = 0 := by rw [huf]
      obtain ⟨t, ht⟩ := ih u (by rw [huf]; exact hm) (by omega) (by rw [huf]; rfl) hbl (by rw [hacc]; omega)
      exact ⟨t, .cons_token h1 hrun hl hnew hlen hold huf ht⟩

/-- Settles O20, from `lineStored_exists`. -/
theorem lexerStoresTheTokensOfTheLine : Obligations.LexerStoresTheTokensOfTheLine := by
  intro s l rest hm h1 hi hb hfit
  obtain ⟨t, h⟩ := lineStored_exists l rest s hm h1 hi hb hfit
  exact ⟨t, h.reaches, h.mode, h.input, h.inPos, h.length, h.words, h.earlier, h.frame⟩

end Sys2Proof.Machine

/-! ## The administrative commands (41_admin.md) -/

namespace Sys2Proof.Machine

/-! ### Sending a text from its beginning -/

/-- Sending a text does not look at the mode. -/
theorem afterText_goto (s : State) (m : Mode) (txt : List Byte) :
    (s.goto m).afterText txt = { s.afterText txt with mode := m } := by
  induction txt generalizing s with
  | nil => rfl
  | cons b r ih => exact ih (s.tx b)

/-- From the beginning of a text, `txt.length` steps lead past it: none when the text is empty (R203). The end `done`
sets the mode itself, so the mode before it does not matter. -/
theorem beginText_run {p : List Byte → Mode} {done : State → State}
    (hstep : ∀ (s : State) (r : List Byte), s.mode = p r → step s = sendText p r (fun s => .next (done s)) s)
    (hmode : ∀ (s : State) (m : Mode), done { s with mode := m } = done s) (txt : List Byte) (s : State) :
    Reaches txt.length (beginText p txt done s) (done (s.afterText txt)) := by
  cases txt with
  | nil => rfl
  | cons b r =>
    obtain ⟨m, h⟩ := text_run hstep b r (s.goto (p (b :: r))) rfl
    refine h.trans (congrArg Host.Outcome.next ?_)
    rw [hmode, afterText_goto, hmode]

/-- The run of a text from its beginning, with what it changes written out (R203, R204). -/
theorem beginText_sends {p : List Byte → Mode} {done : State → State}
    (hstep : ∀ (s : State) (r : List Byte), s.mode = p r → step s = sendText p r (fun s => .next (done s)) s)
    (hmode : ∀ (s : State) (m : Mode), done { s with mode := m } = done s) (txt : List Byte) (s : State) :
    ∃ es, SendEvents txt es ∧ Reaches txt.length (beginText p txt done s)
      (done { s with env := { s.env with sends := s.env.sends.drop txt.length }, draws := s.draws + txt.length,
                     trace := s.trace ++ es }) := by
  obtain ⟨es, hes, he⟩ := State.afterText_eq s txt
  exact ⟨es, hes, he ▸ beginText_run hstep hmode txt s⟩

/-- A command that sends a text and goes on with the line: its first step marks the line, and the text's steps lead
back to it (R115, R121, R124, R128). -/
theorem beginSay_run {p : List Byte → AdminAt}
    (hstep : ∀ (s : State) (r : List Byte), s.mode = .adminop (p r) → step s = say p r s) {s : State}
    (hm : s.mode = .lex .l1) (txt : List Byte) :
    ∃ t1 t es, beginSay p txt s = .next t1 ∧ Reaches txt.length t1 t ∧ SendEvents txt es ∧
      t = { s with admin := true, env := { s.env with sends := s.env.sends.drop txt.length },
                   draws := s.draws + txt.length, trace := s.trace ++ es } := by
  obtain ⟨es, hes, hrun⟩ := beginText_sends hstep (fun _ _ => rfl) txt s.markAdmin
  exact ⟨_, _, es, rfl, hrun, hes, by rw [hm]; rfl⟩

/-! ### `%`, `H`, `I` (R121, R124, R128) -/

theorem step_speed {s : State} {r : List Byte} (hm : s.mode = .adminop (.speed r)) : step s = say .speed r s := by
  rw [step_admin hm, AdminAt.instr, exec, execASpeed, hm]

theorem step_help {s : State} {r : List Byte} (hm : s.mode = .adminop (.help r)) : step s = say .help r s := by
  rw [step_admin hm, AdminAt.instr, exec, execAHelp, helpCommand, hm]

theorem step_ident {s : State} {r : List Byte} (hm : s.mode = .adminop (.ident r)) : step s = say .ident r s := by
  rw [step_admin hm, AdminAt.instr, exec, execAIdent, identCommand, hm]

theorem execASpeed_line {s : State} (hm : s.mode = .lex .l1) :
    execASpeed s = beginSay .speed (Config.speedReport s.speed) s := by
  rw [execASpeed, hm]

theorem helpCommand_line {s : State} (hm : s.mode = .lex .l1) : helpCommand s = beginSay .help Config.helpText s := by
  rw [helpCommand, hm]

theorem identCommand_line {s : State} (hm : s.mode = .lex .l1) :
    identCommand s = beginSay .ident Config.identText s := by
  rw [identCommand, hm]

/-- Settles O21: each of the five is a text from its beginning. -/
theorem textCommandsSendTheirText : Obligations.TextCommandsSendTheirText := by
  intro s hm p hp
  simp only [List.mem_cons, List.not_mem_nil, or_false] at hp
  rcases hp with rfl | rfl | rfl | rfl | rfl
  · rw [exec, execASpeed_line hm]; exact beginSay_run (fun _ _ => step_speed) hm _
  · rw [exec, execAHelp, helpCommand_line hm]; exact beginSay_run (fun _ _ => step_help) hm _
  · rw [exec, execAHelpLc, helpCommand_line hm]; exact beginSay_run (fun _ _ => step_help) hm _
  · rw [exec, execAIdent, identCommand_line hm]; exact beginSay_run (fun _ _ => step_ident) hm _
  · rw [exec, execAIdentLc, identCommand_line hm]; exact beginSay_run (fun _ _ => step_ident) hm _

/-- An ASCII digit lies between `0` and `9` (R62). -/
theorem asciiDigit_range (d : Fin 10) :
    0x30 ≤ (Config.asciiDigit d).toNat ∧ (Config.asciiDigit d).toNat ≤ 0x39 := by
  revert d; decide

/-- Settles O22: the report's digits, its trailing digit and LF, as `Config.speedReport` puts them together. -/
theorem speedReportHasItsForm : Obligations.SpeedReportHasItsForm := by
  intro t
  refine ⟨Config.asciiDigit (Config.speedDigitHead t) :: (Config.speedDigitTail t).map Config.asciiDigit,
    Config.asciiDigit (Config.speedTrail t), ?_, List.cons_ne_nil _ _, fun d hd => ?_,
    (asciiDigit_range _).1, (asciiDigit_range _).2, ?_, ?_⟩
  · rw [Config.speedReport, List.append_assoc]; rfl
  · rcases List.mem_cons.1 hd with rfl | hd
    · exact asciiDigit_range _
    · obtain ⟨x, -, rfl⟩ := List.mem_map.1 hd
      exact asciiDigit_range x
  · rintro rfl; rfl
  · rintro rfl; rfl

/-! ### `^` (R119, R120) -/

theorem execAErr_line {s : State} (hm : s.mode = .lex .l1) :
    execAErr s = .next (s.markAdmin.goto (.adminop (.err (hexReport s.lasterr)))) := by
  rw [execAErr, hm]; rfl

theorem step_err {s : State} {r : List Byte} (hm : s.mode = .adminop (.err r)) :
    step s = sendText (fun r => .adminop (.err r)) r clearError s := by
  rw [step_admin hm, AdminAt.instr, exec, execAErr, hm]

theorem step_errReset {s : State} (hm : s.mode = .adminop .errReset) :
    step s = busReset (.adminop .errFatal) State.backToLine s := by
  rw [step_admin hm, AdminAt.instr, exec, execAErr, hm]

theorem step_errFatal {s : State} (hm : s.mode = .adminop .errFatal) : step s = peripheralFatal s := by
  rw [step_admin hm, AdminAt.instr, exec, execAErr, hm]

/-- After the report `LASTERR` is 0, and a bus reset is next if it was not (R120). -/
theorem clearError_eq (s : State) :
    clearError s = .next { s with lasterr := 0, mode := if s.lasterr = 0 then .lex .l1 else .adminop .errReset } := by
  unfold clearError
  split
  · rename_i h; rw [State.backToLine, ← h]
  · rfl

/-- A bus reset whose next answer is ready (R227). -/
theorem busReset_ok {fatal : Mode} {ok : State → State} {s : State} {rs : List ResetAnswer}
    (h : s.env.resets = .ok :: rs) : busReset fatal ok s = .next (ok s.afterReset) := by
  have hr : s.resetAnswer = .ok := by rw [State.resetAnswer, h]; rfl
  rw [busReset, hr]

@[inherit_doc busReset_ok]
theorem busReset_fail {fatal : Mode} {ok : State → State} {s : State} {rs : List ResetAnswer}
    (h : s.env.resets = .fail :: rs) : busReset fatal ok s = .next (s.afterReset.goto fatal) := by
  have hr : s.resetAnswer = .fail := by rw [State.resetAnswer, h]; rfl
  rw [busReset, hr]

/-- What a `Bus.Reset()` changes, its answer ready. -/
theorem afterReset_eq {s : State} {a : ResetAnswer} {rs : List ResetAnswer} (h : s.env.resets = a :: rs) :
    s.afterReset = { s with env := { s.env with resets := rs }, draws := s.draws + 1,
                            trace := s.trace ++ [.reset a] } := by
  simp only [State.afterReset, State.resetAnswer, h, List.tail_cons, List.headD_cons]

/-- A failed bus reset and the fatal entry after it: two steps, with nothing between (R227, R229; log 5). -/
theorem failedReset_run {fatal : Mode} {ok : State → State} {s : State} {rs : List ResetAnswer}
    (hs : step s = busReset fatal ok s) (hr : s.env.resets = .fail :: rs)
    (hf : ∀ u : State, u.mode = fatal → step u = peripheralFatal u) :
    Reaches 2 s { s with env := { s.env with resets := rs }, draws := s.draws + 1,
                         trace := s.trace ++ [.reset .fail, .fatal Config.fatalPeriph],
                         mode := .halted Config.fatalPeriph } := by
  refine reaches_succ (hs.trans (busReset_fail hr)) (reaches_succ (hf _ rfl) ?_)
  rw [afterReset_eq hr]
  simp [State.raiseFatal, Reaches, steps]

/-- The report of `^`: three bytes, and in the step of the last one `LASTERR` is cleared (R120; log 20). -/
theorem errReport_run {s : State} (hm : s.mode = .lex .l1) :
    ∃ t1 t es, execAErr s = .next t1 ∧ Reaches 3 t1 t ∧ SendEvents (hexReport s.lasterr) es ∧
      t = { s with admin := true, lasterr := 0, env := { s.env with sends := s.env.sends.drop 3 },
                   draws := s.draws + 3, trace := s.trace ++ es,
                   mode := if s.lasterr = 0 then .lex .l1 else .adminop .errReset } := by
  obtain ⟨es, hes, he⟩ := State.afterText_eq s.markAdmin (hexReport s.lasterr)
  obtain ⟨m, hrun⟩ := text_run (fun _ _ => step_err) _ _
    (s.markAdmin.goto (.adminop (.err (hexReport s.lasterr)))) rfl
  refine ⟨_, _, es, execAErr_line hm, hrun.trans (clearError_eq _), hes, ?_⟩
  rw [afterText_goto, show s.markAdmin.afterText [_, _, _] = _ from he]
  rfl

/-- Settles O23: the report's run, then the step of the bus reset for either answer. -/
theorem errorCommandReportsClearsAndResets : Obligations.ErrorCommandReportsClearsAndResets := by
  intro s hm
  obtain ⟨t1, t, es, hfirst, hrun, hes, ht⟩ := errReport_run hm
  have hresets : t.env.resets = s.env.resets := by rw [ht]
  have hreset : s.lasterr ≠ 0 → step t = busReset (.adminop .errFatal) State.backToLine t := fun h0 =>
    step_errReset (by rw [ht]; exact if_neg h0)
  refine ⟨t1, t, es, hfirst, hrun, hes, ht, fun h0 rs hr => ?_, fun h0 rs hr => ?_⟩
  · have hr : t.env.resets = .ok :: rs := hresets.trans hr
    rw [hreset h0, busReset_ok hr, afterReset_eq hr]
    rfl
  · exact failedReset_run (hreset h0) (hresets.trans hr) fun u => step_errFatal

/-! ### `*` (R123) -/

theorem step_bcastText {s : State} {r : List Byte} (hm : s.mode = .adminop (.bcast r)) :
    step s = sendText (fun r => .adminop (.bcast r)) r (fun s => .next (endBcast s)) s := by
  rw [step_admin hm, AdminAt.instr, exec, execABcast, hm]

/-- `*` at the line: the flag is set before the message of its new value. -/
theorem execABcast_line {s : State} (hm : s.mode = .lex .l1) :
    execABcast s = .next (beginText (fun r => .adminop (.bcast r)) (bcastMsg (decide (s.acc ≠ 0))) endBcast
      { s.markAdmin with bcast := decide (s.acc ≠ 0) }) := by
  have hflag : (s.acc != 0) = decide (s.acc ≠ 0) := by rw [Bool.eq_iff_iff, bne_iff_ne, decide_eq_true_iff]
  rw [execABcast, hm, ← hflag]
  rfl

/-- The message is that of the new value (R123). -/
theorem bcastMsg_eq (acc : Byte) :
    bcastMsg (decide (acc ≠ 0)) = if acc = 0 then Config.bcastOffMsg else Config.bcastOnMsg := by
  by_cases h : acc = 0 <;> simp [bcastMsg, h]

/-- Settles O24: the message from its beginning, whose end clears the accumulator. -/
theorem broadcastCommandSetsTheFlag : Obligations.BroadcastCommandSetsTheFlag := by
  intro s msg hm hmsg
  obtain rfl := hmsg.trans (bcastMsg_eq s.acc).symm
  obtain ⟨es, hes, hrun⟩ := beginText_sends (fun _ _ => step_bcastText) (fun _ _ => rfl)
    (bcastMsg (decide (s.acc ≠ 0))) { s.markAdmin with bcast := decide (s.acc ≠ 0) }
  exact ⟨_, _, es, execABcast_line hm, hrun, hes, by rw [hm]; rfl⟩

/-! ### `S`, `T`, `V` (R125 to R127) -/

/-- In the command that sets a tier the step is that tier's command. -/
theorem step_speedCommand {s : State} {u : SpeedTier} {p : AdminAt} (hm : s.mode = .adminop p)
    (hp : p.instr = AdminAt.instr.speedInstr u) : step s = speedCommand u s := by
  rw [step_admin hm, hp]
  cases u <;> rfl

theorem step_setSpeed {s : State} {u : SpeedTier} (hm : s.mode = .adminop (.setSpeed u)) :
    step s = .next (beginText (fun r => .adminop (.speedReply u r)) (Config.speedSetReply u) State.backToLine
      (s.setSpeed u)) := by
  rw [step_speedCommand hm rfl, speedCommand, hm]

theorem step_speedReply {s : State} {u : SpeedTier} {r : List Byte} (hm : s.mode = .adminop (.speedReply u r)) :
    step s = say (.speedReply u) r s := by
  rw [step_speedCommand hm rfl, speedCommand, hm]

theorem speedCommand_line {s : State} {u : SpeedTier} (hm : s.mode = .lex .l1) :
    speedCommand u s = .next (s.markAdmin.goto (.adminop (.setSpeed u))) := by
  rw [speedCommand, hm]; rfl

/-- The command of a tier: `Bus.SetSpeed`, then its reply (R125 to R127). -/
theorem speedCommand_run {s : State} (u : SpeedTier) (hm : s.mode = .lex .l1) :
    ∃ t1 t es, speedCommand u s = .next t1 ∧ Reaches (1 + (Config.speedSetReply u).length) t1 t ∧
      SendEvents (Config.speedSetReply u) es ∧
      t = { s with admin := true, speed := u, palSpeed := u,
                   env := { s.env with sends := s.env.sends.drop (Config.speedSetReply u).length },
                   draws := s.draws + (Config.speedSetReply u).length,
                   trace := s.trace ++ [.setSpeed u] ++ es } := by
  obtain ⟨es, hes, hrun⟩ := beginText_sends (fun _ _ => step_speedReply) (fun _ _ => rfl) (Config.speedSetReply u)
    ((s.markAdmin.goto (.adminop (.setSpeed u))).setSpeed u)
  have hset := reaches_succ (step_setSpeed (s := s.markAdmin.goto (.adminop (.setSpeed u))) rfl) (reaches_zero _)
  refine ⟨_, _, es, speedCommand_line hm, reaches_trans hset hrun, hes, ?_⟩
  rw [hm]
  rfl

/-- Settles O25: each of the six is the command of its tier. -/
theorem speedCommandsSelectTheTier : Obligations.SpeedCommandsSelectTheTier := by
  unfold Obligations.SpeedCommandsSelectTheTier
  intro p hp s hm
  simp only [List.mem_cons, List.not_mem_nil, or_false] at hp
  rcases hp with rfl | rfl | rfl | rfl | rfl | rfl
  · exact speedCommand_run .std hm
  · exact speedCommand_run .std hm
  · exact speedCommand_run .fast hm
  · exact speedCommand_run .fast hm
  · exact speedCommand_run .vslow hm
  · exact speedCommand_run .vslow hm

end Sys2Proof.Machine

/-! ## Runs of the scanner and of a start token

The calls of a run take the answers that the environment has ready; each run is put together from the steps of its
sub-states. -/

namespace Sys2Proof.Machine

/-! ### Calls whose answer is ready (R13) -/

/-- The end of a run, where the state reached is the one asked for. -/
theorem reaches_of_eq {s t : State} (h : s = t) : Reaches 0 s t := h ▸ reaches_zero s

theorem waitAnswer_eq {s : State} {a : WaitAnswer} {ws : List WaitAnswer} (h : s.env.waits = a :: ws) :
    s.waitAnswer = a := by
  rw [State.waitAnswer, h]; rfl

theorem afterWait_eq {s : State} {a : WaitAnswer} {ws : List WaitAnswer} (h : s.env.waits = a :: ws) :
    s.afterWait = { s with env := { s.env with waits := ws }, draws := s.draws + 1,
                           trace := s.trace ++ [.wait a] } := by
  simp only [State.afterWait, waitAnswer_eq h, h, List.tail_cons]

theorem statusAnswer_eq {s : State} {y : Byte} {ss : List Byte} (h : s.env.statuses = y :: ss) :
    s.statusAnswer = y := by
  rw [State.statusAnswer, h]; rfl

theorem afterStatus_eq {s : State} {y : Byte} {ss : List Byte} (h : s.env.statuses = y :: ss) :
    s.afterStatus = { s with sReg := y, env := { s.env with statuses := ss }, draws := s.draws + 1,
                             trace := s.trace ++ [.status y] } := by
  simp only [State.afterStatus, statusAnswer_eq h, h, List.tail_cons]

theorem releaseAnswer_eq {s : State} {a : WaitAnswer} {rl : List WaitAnswer} (h : s.env.releases = a :: rl) :
    s.releaseAnswer = a := by
  rw [State.releaseAnswer, h]; rfl

theorem afterRelease_eq {s : State} {a : WaitAnswer} {rl : List WaitAnswer} (h : s.env.releases = a :: rl) :
    s.afterRelease = { s with env := { s.env with releases := rl }, draws := s.draws + 1,
                              trace := s.trace ++ [.release a] } := by
  simp only [State.afterRelease, releaseAnswer_eq h, h, List.tail_cons]

/-! ### The status checks (R143, R145 to R147) -/

theorem startAccepted_iff (x : Byte) : startAccepted x = true ↔ x = 0x08 ∨ x = 0x10 := by
  rw [startAccepted, Bool.or_eq_true, beq_iff_eq, beq_iff_eq]
  rfl

theorem readPhase_eq (y : Byte) : readPhase y = decide (y = 0x40) := by
  rw [Bool.eq_iff_iff, readPhase, beq_iff_eq, decide_eq_true_iff]
  rfl

/-- Bit 0 of an address byte is the direction (R75). -/
theorem addrByte_direction (a : Address) (d : Bool) : (addrByte a d).getLsbD 0 = d := by
  rw [addrByte, BitVec.getLsbD_append]
  cases d <;> rfl

/-- The address check of a start token: 0x18, and for a read 0x40 too (R145, R146). -/
theorem addrAccepted_iff (a : Address) (d : Bool) (y : Byte) :
    addrAccepted (addrByte a d) y = true ↔ y = 0x18 ∨ (d = true ∧ y = 0x40) := by
  rw [addrAccepted, addrByte_direction]
  cases d
  · rw [if_neg Bool.false_ne_true, beq_iff_eq]
    simp [Config.stAwAck]
  · rw [if_pos rfl, Bool.or_eq_true, beq_iff_eq, beq_iff_eq]
    simp [Config.stAwAck, Config.stArAck]

/-! ### The scanner (44_scanner.md) -/

theorem step_scan {s : State} {p : ScanAt} (hm : s.mode = .adminop (.scan p)) : step s = scanCall p s := by
  rw [step_admin hm, AdminAt.instr, exec, execAScan, hm]

theorem scanWait_done {s : State} {ok : ScanAt} {ws : List WaitAnswer} (h : s.env.waits = .done :: ws) :
    scanWait ok s = .next { s with env := { s.env with waits := ws }, draws := s.draws + 1,
                                   trace := s.trace ++ [.wait .done], mode := scanMode ok } := by
  rw [scanWait, waitAnswer_eq h, afterWait_eq h]; rfl

theorem scanWait_timeout {s : State} {ok : ScanAt} {ws : List WaitAnswer} (h : s.env.waits = .timeout :: ws) :
    scanWait ok s = .next { s with env := { s.env with waits := ws }, draws := s.draws + 1,
                                   trace := s.trace ++ [.wait .timeout], mode := scanMode .timeout } := by
  rw [scanWait, waitAnswer_eq h, afterWait_eq h]; rfl

theorem step_scan_start {s : State} (hm : s.mode = .adminop (.scan .start)) :
    step s = .next { s with busHeld := true, trace := s.trace ++ [.start], mode := scanMode .startWait } :=
  step_scan hm

theorem step_scan_startWait {s : State} (hm : s.mode = .adminop (.scan .startWait)) :
    step s = scanWait .startStatus s := step_scan hm

theorem step_scan_addrWait {s : State} (hm : s.mode = .adminop (.scan .addrWait)) :
    step s = scanWait .addrStatus s := step_scan hm

/-- A start of the sweep that is not accepted (R187). -/
theorem step_scan_refused {s : State} {x : Byte} {ss : List Byte} (hm : s.mode = .adminop (.scan .startStatus))
    (h : s.env.statuses = x :: ss) (hx : startAccepted x = false) :
    step s = .next { s with sReg := x, err := s.err ||| errMask .sf, env := { s.env with statuses := ss },
                            draws := s.draws + 1, trace := s.trace ++ [.status x], mode := scanMode .stop } := by
  rw [step_scan hm, scanCall, statusAnswer_eq h, if_neg (by simp [hx]), afterStatus_eq h]; rfl

theorem step_scan_stop {s : State} (hm : s.mode = .adminop (.scan .stop)) :
    step s = .next { s with busHeld := false, trace := s.trace ++ [.stop], mode := scanMode .release } :=
  step_scan hm

/-- The release of a sweep comes: its result goes to `LASTERR` (R192). -/
theorem step_scan_released {s : State} {rl : List WaitAnswer} (hm : s.mode = .adminop (.scan .release))
    (h : s.env.releases = .done :: rl) :
    step s = .next { s with lasterr := s.lasterr ||| s.err, env := { s.env with releases := rl },
                            draws := s.draws + 1, trace := s.trace ++ [.release .done], mode := .lex .l1 } := by
  rw [step_scan hm, scanCall, releaseAnswer_eq h, afterRelease_eq h]; rfl

theorem step_scan_held {s : State} {rl : List WaitAnswer} (hm : s.mode = .adminop (.scan .release))
    (h : s.env.releases = .timeout :: rl) :
    step s = .next { s with env := { s.env with releases := rl }, draws := s.draws + 1,
                            trace := s.trace ++ [.release .timeout], mode := scanMode .releaseReset } := by
  rw [step_scan hm, scanCall, releaseAnswer_eq h, afterRelease_eq h]; rfl

/-- The bus reset of an expired wait of the sweep (R191). -/
theorem step_scan_reset {s : State} {rs : List ResetAnswer} (hm : s.mode = .adminop (.scan .timeout))
    (h : s.env.resets = .ok :: rs) :
    step s = .next { s with err := s.err ||| errMask .bro, env := { s.env with resets := rs }, draws := s.draws + 1,
                            trace := s.trace ++ [.reset .ok], mode := scanMode .stop } := by
  rw [step_scan hm, scanCall, busReset_ok h, afterReset_eq h]; rfl

/-- The bus reset of an expired release of the sweep (R192). -/
theorem step_scan_releaseReset {s : State} {rs : List ResetAnswer} (hm : s.mode = .adminop (.scan .releaseReset))
    (h : s.env.resets = .ok :: rs) :
    step s = .next { s with err := s.err ||| errMask .bro, lasterr := s.lasterr ||| (s.err ||| errMask .bro),
                            env := { s.env with resets := rs }, draws := s.draws + 1,
                            trace := s.trace ++ [.reset .ok], mode := .lex .l1 } := by
  rw [step_scan hm, scanCall, busReset_ok h, afterReset_eq h]; rfl

/-- The cleanup of a sweep whose release comes: stop, release, and the result goes to `LASTERR` (R192). -/
theorem scanCleanup_run {s t : State} {rl : List WaitAnswer} (hm : s.mode = .adminop (.scan .stop))
    (h : s.env.releases = .done :: rl)
    (ht : t = { s with lasterr := s.lasterr ||| s.err, busHeld := false, mode := .lex .l1, draws := s.draws + 1,
                       env := { s.env with releases := rl }, trace := s.trace ++ [.stop, .release .done] }) :
    Reaches 2 s t := by
  refine reaches_succ (step_scan_stop hm) (reaches_succ (step_scan_released rfl h) (reaches_of_eq ?_))
  simp [ht]

/-- Settles O27: three steps to the refusal, then the cleanup. -/
theorem refusedStartEndsTheSweep : Obligations.RefusedStartEndsTheSweep := by
  intro s x ws rs ss hm hw hs hr h08 h10
  have hx : startAccepted x = false := by
    rw [← Bool.not_eq_true, startAccepted_iff]
    exact fun h => h.elim h08 h10
  refine ⟨by rw [exec, execAScan, hm]; rfl, ?_⟩
  refine reaches_succ (step_scan_start hm) (reaches_succ ((step_scan_startWait rfl).trans (scanWait_done hw)) ?_)
  refine reaches_succ (step_scan_refused rfl hs hx) ?_
  refine scanCleanup_run rfl hr ?_
  simp

/-- Settles O28: the bus reset of an expired wait and the cleanup; or the cleanup with the reset of an expired
release. -/
theorem expiredWaitEndsTheSweep : Obligations.ExpiredWaitEndsTheSweep := by
  refine ⟨fun s ws rl rs hm hw hr hl => ?_, fun s rl rs hm hl hr => ?_⟩
  · have hexpired := hm.elim (fun hm => (step_scan_startWait hm).trans (scanWait_timeout hw))
      (fun hm => (step_scan_addrWait hm).trans (scanWait_timeout hw))
    refine reaches_succ hexpired (reaches_succ (step_scan_reset rfl hr) ?_)
    refine scanCleanup_run rfl hl ?_
    simp
  · refine reaches_succ (step_scan_stop hm) (reaches_succ (step_scan_held rfl hl) ?_)
    refine reaches_succ (step_scan_releaseReset rfl hr) (reaches_of_eq ?_)
    simp

end Sys2Proof.Machine

/-! ## A start token in either executor (R143 to R148, R172 to R174) -/

namespace Sys2Proof.Machine

/-! ### Where a walk goes after its token (R141) -/

/-- After an advance the index is that of the next slot. -/
theorem walkAdvance_end {enter : State → Out} {stop : Mode} {s : State} (hcap : s.tbLen ≤ Config.tbCap)
    (h : s.iReg.toNat + 1 = s.tbLen) :
    walkAdvance enter stop s = .next { s with iReg := s.iReg + 1, mode := stop } :=
  walkFetch_end (s := { s with iReg := s.iReg + 1 }) ((iReg_succ_toNat (by omega) hcap).trans h)

theorem walkAdvance_live {enter : State → Out} {stop : Mode} {s : State} {w : Word} (hcap : s.tbLen ≤ Config.tbCap)
    (hlt : s.iReg.toNat + 1 < s.tbLen) (hw : readSlot s.tb (s.iReg.toNat + 1) = some w) :
    walkAdvance enter stop s = enter { s with iReg := s.iReg + 1, tReg := w } := by
  have hi : (s.iReg + 1).toNat = s.iReg.toNat + 1 := iReg_succ_toNat (by omega) hcap
  refine walkFetch_live (s := { s with iReg := s.iReg + 1 }) ?_ ?_ ?_
  · simp only [hi]; omega
  · simp only [hi]; exact hlt
  · simp only [hi]; exact hw

/-- The checked executor enters a read-count of 0 by NBR and its cleanup (R148). -/
theorem checkedEnter_zero {s : State} (hr : s.rp = true) (h0 : s.tReg = 0) :
    checkedEnter s = .next { s with nReg := 0, err := s.err ||| errMask .nbr, mode := .execChecked .stop } := by
  rw [checkedEnter, enterToken_count hr (by rw [h0]; decide), checkedCount, if_pos h0, h0]
  rfl

/-- The checked executor enters another read-count at its first byte (R148). -/
theorem checkedEnter_count {s : State} (hr : s.rp = true) (hl : s.tReg.toNat < Config.startBase) (h0 : s.tReg ≠ 0) :
    checkedEnter s = .next { s with nReg := s.tReg, kReg := 1, mode := .execChecked .readCall } := by
  rw [checkedEnter, enterToken_count hr hl, checkedCount, if_neg h0]

/-- The Broadcast executor passes over a read-count of 0, which ends the read phase (R174). -/
theorem bcastEnter_zero {s : State} (hr : s.rp = true) (h0 : s.tReg = 0) :
    bcastEnter s = bcastStand { s with nReg := 0, rp := false } := by
  rw [bcastEnter, enterToken_count hr (by rw [h0]; decide), bcastCount, if_pos h0, h0]

/-- The Broadcast executor enters another read-count at its first byte (R174). -/
theorem bcastEnter_count {s : State} (hr : s.rp = true) (hl : s.tReg.toNat < Config.startBase) (h0 : s.tReg ≠ 0) :
    bcastEnter s = .next { s with nReg := s.tReg, kReg := 1, mode := .execBcast .readCall } := by
  rw [bcastEnter, enterToken_count hr hl, bcastCount, if_neg h0]

/-- A fetched word outside a read phase or of 1000 and above, a count, or a count of 0 (R69, R73). -/
theorem fetched_cases (rp : Bool) (w : Word) :
    (rp = false ∨ 1000 ≤ w.toNat) ∨ (rp = true ∧ w.toNat < 1000 ∧ w ≠ 0) ∨ (rp = true ∧ w = 0) := by
  cases rp
  · exact .inl (.inl rfl)
  · by_cases h0 : w = 0
    · exact .inr (.inr ⟨rfl, h0⟩)
    · by_cases hl : w.toNat < 1000
      · exact .inr (.inl ⟨rfl, hl, h0⟩)
      · exact .inl (.inr (Nat.le_of_not_lt hl))

/-- The three kinds of a fetched word shut each other out. -/
theorem not_count_of_stand {rp : Bool} {w : Word} (h : rp = false ∨ 1000 ≤ w.toNat) (hr : rp = true)
    (hl : w.toNat < 1000) : False := by
  rcases h with h | h
  · rw [hr] at h; cases h
  · omega

theorem toNat_lt_of_eq_zero {w : Word} (h : w = 0) : w.toNat < 1000 := by rw [h]; decide

/-- A checked walk that can go on does, to where `CheckedGoesOn` says. -/
theorem checkedAdvance_goesOn {s : State} (h : WalkGoesOn s) :
    ∃ t, checkedAdvance s = .next t ∧ CheckedGoesOn s t := by
  obtain ⟨hle, hcap, htok⟩ := h
  rcases hle.eq_or_lt with hend | hlt
  · exact ⟨_, walkAdvance_end hcap.le hend, fun _ => rfl, fun w hlt => absurd hend hlt.ne⟩
  · obtain ⟨w, hw⟩ := htok hlt
    have hadv : checkedAdvance s = checkedEnter { s with iReg := s.iReg + 1, tReg := w } :=
      walkAdvance_live hcap.le hlt hw
    have hsame : ∀ {x}, readSlot s.tb (s.iReg.toNat + 1) = some x → w = x := fun hx =>
      Option.some.inj (hw.symm.trans hx)
    rcases fetched_cases s.rp w with hs | ⟨hr, hl, h0⟩ | ⟨hr, h0⟩
    · refine ⟨_, hadv.trans (checkedEnter_stand hs), fun he => absurd he hlt.ne, fun x _ hx => ?_⟩
      obtain rfl := hsame hx
      exact ⟨fun _ => rfl, fun hr hl _ => (not_count_of_stand hs hr hl).elim,
        fun hr h0 => (not_count_of_stand hs hr (toNat_lt_of_eq_zero h0)).elim⟩
    · refine ⟨_, hadv.trans (checkedEnter_count hr hl h0), fun he => absurd he hlt.ne, fun x _ hx => ?_⟩
      obtain rfl := hsame hx
      exact ⟨fun hs => (not_count_of_stand hs hr hl).elim, fun _ _ _ => rfl, fun _ hz => absurd hz h0⟩
    · refine ⟨_, hadv.trans (checkedEnter_zero hr h0), fun he => absurd he hlt.ne, fun x _ hx => ?_⟩
      obtain rfl := hsame hx
      exact ⟨fun hs => (not_count_of_stand hs hr (toNat_lt_of_eq_zero h0)).elim, fun _ _ hn => absurd h0 hn,
        fun _ _ => by rw [h0]⟩

/-- A Broadcast walk outside a read phase stands before the next token, or at its cleanup. -/
theorem bcastStand_goesOn {s : State} (h : WalkGoesOn s) :
    ∃ t, bcastStand s = .next t ∧ GoesOn (.execBcast .token) (.execBcast .stop) s t := by
  obtain ⟨hle, hcap, htok⟩ := h
  rcases hle.eq_or_lt with hend | hlt
  · exact ⟨_, walkAdvance_end hcap.le hend, fun _ => rfl, fun w hlt => absurd hend hlt.ne⟩
  · obtain ⟨w, hw⟩ := htok hlt
    refine ⟨_, walkAdvance_live hcap.le hlt hw, fun he => absurd he hlt.ne, fun x _ hx => ?_⟩
    obtain rfl : w = x := Option.some.inj (hw.symm.trans hx)
    rfl

/-- On a line whose slots all hold tokens the walk can go on, and again after the next token. -/
theorem LineGoesOn.walkGoesOn {s : State} (h : LineGoesOn s) : WalkGoesOn s := by
  obtain ⟨hle, hcap, htok⟩ := h
  exact ⟨hle, hcap, fun hlt => htok _ (Nat.lt_succ_self _) hlt⟩

theorem LineGoesOn.next {s t : State} (h : LineGoesOn s) (hlt : s.iReg.toNat + 1 < s.tbLen) (htb : t.tb = s.tb)
    (hi : t.iReg = s.iReg + 1) : LineGoesOn t := by
  obtain ⟨-, hcap, htok⟩ := h
  have hlen := tbLen_of_tb_eq htb
  have hin : t.iReg.toNat = s.iReg.toNat + 1 := by rw [hi]; exact iReg_succ_toNat (by omega) hcap.le
  refine ⟨by omega, by omega, fun a ha hla => ?_⟩
  rw [htb]
  exact htok a (by omega) (by omega)

/-- A Broadcast walk that can go on does, to where `BcastGoesOn` says. -/
theorem bcastAdvance_goesOn {s : State} (h : LineGoesOn s) : ∃ t, bcastAdvance s = .next t ∧ BcastGoesOn s t := by
  obtain ⟨hle, hcap, htok⟩ := h.walkGoesOn
  rcases hle.eq_or_lt with hend | hlt
  · exact ⟨_, walkAdvance_end hcap.le hend, fun _ => rfl, fun w hlt => absurd hend hlt.ne⟩
  · obtain ⟨w, hw⟩ := htok hlt
    have hadv : bcastAdvance s = bcastEnter { s with iReg := s.iReg + 1, tReg := w } :=
      walkAdvance_live hcap.le hlt hw
    have hsame : ∀ {x}, readSlot s.tb (s.iReg.toNat + 1) = some x → w = x := fun hx =>
      Option.some.inj (hw.symm.trans hx)
    rcases fetched_cases s.rp w with hs | ⟨hr, hl, h0⟩ | ⟨hr, h0⟩
    · refine ⟨_, hadv.trans (bcastEnter_stand hs), fun he => absurd he hlt.ne, fun x _ hx => ?_⟩
      obtain rfl := hsame hx
      exact ⟨fun _ => rfl, fun hr hl _ => (not_count_of_stand hs hr hl).elim,
        fun hr h0 => (not_count_of_stand hs hr (toNat_lt_of_eq_zero h0)).elim⟩
    · refine ⟨_, hadv.trans (bcastEnter_count hr hl h0), fun he => absurd he hlt.ne, fun x _ hx => ?_⟩
      obtain rfl := hsame hx
      exact ⟨fun hs => (not_count_of_stand hs hr hl).elim, fun _ _ _ => rfl, fun _ hz => absurd hz h0⟩
    · subst h0
      have hzero := bcastEnter_zero (s := { s with iReg := s.iReg + 1, tReg := 0 }) hr rfl
      have hnext : LineGoesOn { s with iReg := s.iReg + 1, tReg := 0, nReg := 0, rp := false } := h.next hlt rfl rfl
      obtain ⟨t, ht, hgo⟩ := bcastStand_goesOn hnext.walkGoesOn
      refine ⟨t, hadv.trans (hzero.trans ht), fun he => absurd he hlt.ne, fun x _ hx => ?_⟩
      obtain rfl := hsame hx
      exact ⟨fun hs => (not_count_of_stand hs hr (by decide)).elim, fun _ _ hn => absurd rfl hn, fun _ _ => hgo⟩

/-! ### The checked executor's start token (R143 to R147) -/

/-- The instruction of a start token of address `a` and direction `d` (R71). -/
def startInstr (hi : Byte) (a : Address) (d : Bool) : Instr := if d then .startR hi a else .startW hi a

/-- A start token's call in the checked executor. -/
theorem exec_startInstr_checked {s : State} {p : CheckedAt} {hi : Byte} {a : Address} {d : Bool}
    (hm : s.mode = .execChecked p) : exec (startInstr hi a d) s = checkedStart (addrByte a d) p s := by
  cases d
  · show startCommand (addrByte a false) s = _
    rw [startCommand, hm]
  · show startCommand (addrByte a true) s = _
    rw [startCommand, hm]

/-- A step of a start token in the checked executor. -/
theorem step_startInstr_checked {s : State} {p : CheckedAt} {hi : Byte} {a : Address} {d : Bool}
    (hm : s.mode = .execChecked p) (hp : p.inToken = true) (hd : decodeWord s.rp s.tReg = startInstr hi a d) :
    step s = checkedStart (addrByte a d) p s := by
  rw [step_checked hm hp, hd, exec_startInstr_checked hm]

theorem checkedWait_done {ok : State → Out} {s : State} {ws : List WaitAnswer} (h : s.env.waits = .done :: ws) :
    checkedWait ok s = ok { s with env := { s.env with waits := ws }, draws := s.draws + 1,
                                   trace := s.trace ++ [.wait .done] } := by
  rw [checkedWait, waitAnswer_eq h, afterWait_eq h]

section CheckedStart

variable {s : State} {hi : Byte} {a : Address} {d : Bool} {x y : Byte} {ws : List WaitAnswer} {ss : List Byte}

theorem step_checked_startWait (hm : s.mode = .execChecked .startWait)
    (hd : decodeWord s.rp s.tReg = startInstr hi a d) (h : s.env.waits = .done :: ws) :
    step s = .next { s with env := { s.env with waits := ws }, draws := s.draws + 1,
                            trace := s.trace ++ [.wait .done], mode := .execChecked .startStatus } := by
  rw [step_startInstr_checked hm rfl hd, checkedStart, checkedWait_done h]
  rfl

/-- An accepted start status forms the address byte (R143, R144). -/
theorem step_checked_startStatus (hm : s.mode = .execChecked .startStatus)
    (hd : decodeWord s.rp s.tReg = startInstr hi a d) (h : s.env.statuses = x :: ss)
    (hx : startAccepted x = true) :
    step s = .next { s with sReg := x, env := { s.env with statuses := ss }, draws := s.draws + 1,
                            trace := s.trace ++ [.status x], abReg := addrByte a d, mode := .execChecked .addr } := by
  rw [step_startInstr_checked hm rfl hd, checkedStart, statusAnswer_eq h, if_pos hx, afterStatus_eq h]
  rfl

/-- Another start status flags SF and aborts (R143). -/
theorem step_checked_startRefused (hm : s.mode = .execChecked .startStatus)
    (hd : decodeWord s.rp s.tReg = startInstr hi a d) (h : s.env.statuses = x :: ss)
    (hx : startAccepted x = false) :
    step s = .next { s with sReg := x, err := s.err ||| errMask .sf, env := { s.env with statuses := ss },
                            draws := s.draws + 1, trace := s.trace ++ [.status x],
                            mode := .execChecked .stop } := by
  rw [step_startInstr_checked hm rfl hd, checkedStart, statusAnswer_eq h, if_neg (by simp [hx]), afterStatus_eq h]
  rfl

theorem step_checked_addr (hm : s.mode = .execChecked .addr) (hd : decodeWord s.rp s.tReg = startInstr hi a d) :
    step s = .next { s with trace := s.trace ++ [.write s.abReg], mode := .execChecked .addrWait } :=
  step_startInstr_checked hm rfl hd

theorem step_checked_addrWait (hm : s.mode = .execChecked .addrWait)
    (hd : decodeWord s.rp s.tReg = startInstr hi a d) (h : s.env.waits = .done :: ws) :
    step s = .next { s with env := { s.env with waits := ws }, draws := s.draws + 1,
                            trace := s.trace ++ [.wait .done], mode := .execChecked .addrStatus } := by
  rw [step_startInstr_checked hm rfl hd, checkedStart, checkedWait_done h]
  rfl

/-- An accepted address status sets the read phase, and the walk goes on (R145 to R147). -/
theorem step_checked_addrStatus (hm : s.mode = .execChecked .addrStatus)
    (hd : decodeWord s.rp s.tReg = startInstr hi a d) (h : s.env.statuses = y :: ss)
    (hy : addrAccepted s.abReg y = true) :
    step s = checkedAdvance { s with sReg := y, rp := decide (y = 0x40), env := { s.env with statuses := ss },
                                     draws := s.draws + 1, trace := s.trace ++ [.status y] } := by
  rw [step_startInstr_checked hm rfl hd, checkedStart, statusAnswer_eq h, if_pos hy, afterStatus_eq h, readPhase_eq]

/-- Another address status flags AN and aborts (R145, R146). -/
theorem step_checked_addrRefused (hm : s.mode = .execChecked .addrStatus)
    (hd : decodeWord s.rp s.tReg = startInstr hi a d) (h : s.env.statuses = y :: ss)
    (hy : addrAccepted s.abReg y = false) :
    step s = .next { s with sReg := y, err := s.err ||| errMask .an, env := { s.env with statuses := ss },
                            draws := s.draws + 1, trace := s.trace ++ [.status y],
                            mode := .execChecked .stop } := by
  rw [step_startInstr_checked hm rfl hd, checkedStart, statusAnswer_eq h, if_neg (by simp [hy]), afterStatus_eq h]
  rfl

/-- The first call of a start token takes the bus (R143). -/
theorem exec_checked_start (hm : s.mode = .execChecked .token) :
    exec (startInstr hi a d) s =
      .next { s with busHeld := true, trace := s.trace ++ [.start], mode := .execChecked .startWait } :=
  exec_startInstr_checked hm

/-- An accepted start, from its wait to the address status: four steps (R143, R144). -/
theorem checkedStart_run (hd : decodeWord s.rp s.tReg = startInstr hi a d) (hw : s.env.waits = .done :: .done :: ws)
    (hs : s.env.statuses = x :: ss) (hx : startAccepted x = true) :
    Reaches 4 { s with busHeld := true, trace := s.trace ++ [.start], mode := .execChecked .startWait }
      { s with busHeld := true, abReg := addrByte a d, sReg := x, mode := .execChecked .addrStatus,
               draws := s.draws + 3, env := { s.env with waits := ws, statuses := ss },
               trace := s.trace ++ [.start, .wait .done, .status x, .write (addrByte a d), .wait .done] } := by
  refine reaches_succ (step_checked_startWait rfl hd hw) (reaches_succ (step_checked_startStatus rfl hd hs hx) ?_)
  refine reaches_succ (step_checked_addr rfl hd) (reaches_succ (step_checked_addrWait rfl hd rfl) (reaches_of_eq ?_))
  simp

end CheckedStart

/-- Settles O30: four steps to the address status, whose step goes on to the next token. -/
theorem checkedStartTokenAddressesTheFollower : Obligations.CheckedStartTokenAddressesTheFollower := by
  intro s i hi a d x y ws ss hinstr hm hd hgo hw hs hx hy
  obtain rfl : i = startInstr hi a d := hinstr
  obtain ⟨t, ht, hnext⟩ := checkedAdvance_goesOn (s :=
    { s with busHeld := true, abReg := addrByte a d, sReg := y, rp := decide (y = 0x40), draws := s.draws + 4,
             mode := .execChecked .addrStatus, env := { s.env with waits := ws, statuses := ss },
             trace := s.trace ++ [.start, .wait .done, .status x, .write (addrByte a d), .wait .done, .status y] }) hgo
  have hrun := checkedStart_run hd hw hs ((startAccepted_iff x).2 hx)
  refine ⟨_, t, exec_checked_start hm, rfl, reaches_trans hrun (reaches_succ ?_ (reaches_zero t)), hnext⟩
  refine Eq.trans (step_checked_addrStatus rfl hd rfl ((addrAccepted_iff a d y).2 hy)) ?_
  rw [← ht]
  simp

/-- Settles O31: the start's wait, then its status. -/
theorem checkedStartRefusedFlagsStartFail : Obligations.CheckedStartRefusedFlagsStartFail := by
  intro s i hi a d x ws ss hinstr hm hd hw hs h08 h10
  obtain rfl : i = startInstr hi a d := hinstr
  have hx : startAccepted x = false := by
    rw [← Bool.not_eq_true, startAccepted_iff]
    exact fun h => h.elim h08 h10
  refine ⟨_, exec_checked_start hm, reaches_succ (step_checked_startWait rfl hd hw) ?_⟩
  refine reaches_succ (step_checked_startRefused rfl hd hs hx) (reaches_of_eq ?_)
  simp

/-- Settles O32: four steps to the address status, whose step aborts. -/
theorem checkedAddressRefusedFlagsAddressNack : Obligations.CheckedAddressRefusedFlagsAddressNack := by
  intro s i hi a d x y ws ss hinstr hm hd hw hs hx h18 h40
  obtain rfl : i = startInstr hi a d := hinstr
  have hy : addrAccepted (addrByte a d) y = false := by
    rw [← Bool.not_eq_true, addrAccepted_iff]
    exact fun h => h.elim h18 fun ⟨hr, h⟩ => h40 hr h
  have hrun := checkedStart_run hd hw hs ((startAccepted_iff x).2 hx)
  refine ⟨_, exec_checked_start hm, reaches_trans (k := 1) hrun ?_⟩
  refine reaches_succ (step_checked_addrRefused rfl hd rfl hy) (reaches_of_eq ?_)
  simp

/-! ### The Broadcast executor's start token (R172, R173) -/

theorem exec_startInstr_bcast {s : State} {p : BcastAt} {hi : Byte} {a : Address} {d : Bool}
    (hm : s.mode = .execBcast p) : exec (startInstr hi a d) s = bcastStart (addrByte a d) p s := by
  cases d
  · show startCommand (addrByte a false) s = _
    rw [startCommand, hm]
  · show startCommand (addrByte a true) s = _
    rw [startCommand, hm]

/-- A step of a start token in the Broadcast executor. -/
theorem step_startInstr_bcast {s : State} {p : BcastAt} {hi : Byte} {a : Address} {d : Bool}
    (hm : s.mode = .execBcast p) (hp : p.inToken = true) (hd : decodeWord s.rp s.tReg = startInstr hi a d) :
    step s = bcastStart (addrByte a d) p s := by
  rw [step_bcast hm hp, hd, exec_startInstr_bcast hm]

theorem bcastWait_done {ok : State → Out} {s : State} {ws : List WaitAnswer} (h : s.env.waits = .done :: ws) :
    bcastWait ok s = ok { s with env := { s.env with waits := ws }, draws := s.draws + 1,
                                 trace := s.trace ++ [.wait .done] } := by
  rw [bcastWait, waitAnswer_eq h, afterWait_eq h]

section BcastStart

variable {s : State} {hi : Byte} {a : Address} {d : Bool} {y : Byte} {ws : List WaitAnswer} {ss : List Byte}

/-- The start's wait forms the address byte (R172; log 1). -/
theorem step_bcast_startWait (hm : s.mode = .execBcast .startWait)
    (hd : decodeWord s.rp s.tReg = startInstr hi a d) (h : s.env.waits = .done :: ws) :
    step s = .next { s with env := { s.env with waits := ws }, draws := s.draws + 1,
                            trace := s.trace ++ [.wait .done], abReg := addrByte a d, mode := .execBcast .addr } := by
  rw [step_startInstr_bcast hm rfl hd, bcastStart, bcastWait_done h]
  rfl

theorem step_bcast_addr (hm : s.mode = .execBcast .addr) (hd : decodeWord s.rp s.tReg = startInstr hi a d) :
    step s = .next { s with trace := s.trace ++ [.write s.abReg], mode := .execBcast .addrWait } :=
  step_startInstr_bcast hm rfl hd

theorem step_bcast_addrWait (hm : s.mode = .execBcast .addrWait)
    (hd : decodeWord s.rp s.tReg = startInstr hi a d) (h : s.env.waits = .done :: ws) :
    step s = .next { s with env := { s.env with waits := ws }, draws := s.draws + 1,
                            trace := s.trace ++ [.wait .done], mode := .execBcast .addrStatus } := by
  rw [step_startInstr_bcast hm rfl hd, bcastStart, bcastWait_done h]
  rfl

/-- Any address status sets the read phase, and the walk goes on (R173). -/
theorem step_bcast_addrStatus (hm : s.mode = .execBcast .addrStatus)
    (hd : decodeWord s.rp s.tReg = startInstr hi a d) (h : s.env.statuses = y :: ss) :
    step s = bcastAdvance { s with sReg := y, rp := decide (y = 0x40), env := { s.env with statuses := ss },
                                   draws := s.draws + 1, trace := s.trace ++ [.status y] } := by
  rw [step_startInstr_bcast hm rfl hd, bcastStart, statusAnswer_eq h, afterStatus_eq h, readPhase_eq]

/-- The first call of a start token takes the bus (R172). -/
theorem exec_bcast_start (hm : s.mode = .execBcast .token) :
    exec (startInstr hi a d) s =
      .next { s with busHeld := true, trace := s.trace ++ [.start], mode := .execBcast .startWait } :=
  exec_startInstr_bcast hm

end BcastStart

/-- Settles O39: three steps to the address status, whose step goes on whatever it is. -/
theorem broadcastStartTokenChecksNothing : Obligations.BroadcastStartTokenChecksNothing := by
  intro s i hi a d y ws ss hinstr hm hd hgo hw hs
  obtain rfl : i = startInstr hi a d := hinstr
  obtain ⟨t, ht, hnext⟩ := bcastAdvance_goesOn (s :=
    { s with busHeld := true, abReg := addrByte a d, sReg := y, rp := decide (y = 0x40), draws := s.draws + 3,
             mode := .execBcast .addrStatus, env := { s.env with waits := ws, statuses := ss },
             trace := s.trace ++ [.start, .wait .done, .write (addrByte a d), .wait .done, .status y] }) hgo
  refine ⟨_, t, exec_bcast_start hm, rfl, ?_, hnext⟩
  refine reaches_succ (step_bcast_startWait rfl hd hw) (reaches_succ (step_bcast_addr rfl hd) ?_)
  refine reaches_succ (step_bcast_addrWait rfl hd rfl) (reaches_succ ?_ (reaches_zero t))
  refine Eq.trans (step_bcast_addrStatus rfl hd hs) ?_
  rw [← ht]
  simp

end Sys2Proof.Machine

/-! ## Input, calls and the order of events (20_memory.md) -/

namespace Sys2Proof.Machine

/-! ### The input (R32, R57) -/

/-- Only `Rx()` takes input: what the received byte does takes none. -/
theorem Lexed.input {v t : State} {b : Byte} (h : Lexed v b t) : t.input = v.input := by
  cases h <;> rfl

/-- Settles O50: of the steps that `Move.session` allows, only the `Rx()` touches the input or its position. -/
theorem inputIsTakenInOrder : Obligations.InputIsTakenInOrder := by
  intro s t h
  cases (step_move h).session with
  | keeps hk => exact .inl ⟨hk.input, hk.inPos⟩
  | @received u v b hr hl =>
    obtain ⟨hp, ht⟩ := hl.position
    refine .inr ⟨b, ?_, ?_, ?_⟩
    · rw [hl.input]; exact hr.input
    · rw [hp, hr.fields]
    · rw [ht, hr.fields]
  | speed _ _ _ _ hi hp _ => exact .inl ⟨hi, hp⟩

/-! ### Which call may come next (R53, R226, R227) -/

/-- The call may be made where `d` is due: it may follow every event that leaves `d` due. -/
def Due.Allows (d : Due) (f : Event) : Prop := ∀ e, d.fits (some e) = true → mayFollow e f = true

/-- A call that needs no particular call before it. -/
def Event.unprompted : Event → Bool
  | .wait _ | .release _ | .status _ | .read _ => false
  | _ => true

theorem allows_free {f : Event} (hf : f.unprompted = true) : Due.free.Allows f := by
  intro e he
  cases f with
  | wait | release | status | read => cases hf
  | _ =>
    cases e with
    | start | write | ack | nack | stop | fatal => cases he
    | wait a | release a =>
      cases a with
      | done => rfl
      | timeout => cases he
    | reset a =>
      cases a with
      | ok => rfl
      | fail => cases he
    | _ => rfl

theorem allows_wait (a : WaitAnswer) : Due.wait.Allows (.wait a) := by
  intro e he
  cases e with
  | start | write | ack | nack => rfl
  | _ => cases he

theorem allows_release (a : WaitAnswer) : Due.release.Allows (.release a) := by
  intro e he
  cases e with
  | stop => rfl
  | _ => cases he

/-- The one event after which a status or, in the Broadcast executor, a byte is read. -/
theorem eq_wait_done {e : Event} (h : Due.doneWait.fits (some e) = true) : e = .wait .done := by
  cases e with
  | wait a =>
    cases a with
    | done => rfl
    | timeout => cases h
  | _ => cases h

theorem allows_doneWait_status (b : Byte) : Due.doneWait.Allows (.status b) := by
  intro e he
  rw [eq_wait_done he]
  rfl

theorem allows_doneWait_read (b : Byte) : Due.doneWait.Allows (.read b) := by
  intro e he
  rw [eq_wait_done he]
  rfl

theorem allows_status_read (b : Byte) : Due.status.Allows (.read b) := by
  intro e he
  cases e with
  | status => rfl
  | _ => cases he

theorem allows_waitReset (a : ResetAnswer) : Due.waitReset.Allows (.reset a) := by
  intro e he
  cases e with
  | wait a =>
    cases a with
    | timeout => rfl
    | done => cases he
  | _ => cases he

theorem allows_releaseReset (a : ResetAnswer) : Due.releaseReset.Allows (.reset a) := by
  intro e he
  cases e with
  | release a =>
    cases a with
    | timeout => rfl
    | done => cases he
  | _ => cases he

theorem allows_resetFail (c : Nat) : Due.resetFail.Allows (.fatal c) := by
  intro e he
  cases e with
  | reset a =>
    cases a with
    | fail => rfl
    | ok => cases he
  | _ => cases he

/-- One more event that may follow the last one keeps the order. -/
theorem orderOk_append {l : List Event} {f : Event} (h : orderOk l = true)
    (hf : ∀ e, l.getLast? = some e → mayFollow e f = true) : orderOk (l ++ [f]) = true := by
  induction l with
  | nil => rfl
  | cons e l ih =>
    cases l with
    | nil => simp [orderOk, hf e rfl]
    | cons e' l =>
      simp only [orderOk, Bool.and_eq_true] at h
      simp only [List.cons_append, orderOk, Bool.and_eq_true]
      exact ⟨h.1, ih h.2 fun x hx => hf x (by rw [List.getLast?_cons_cons]; exact hx)⟩

/-! ### The call of a step (R12) -/

/-- What a step from mode `m` adds to the trace: one call, allowed by what is due, that leaves due what the next mode
asks for; or nothing, in the dispatch, in the wait for input, and at a text with no byte left. -/
inductive CallStep (m : Mode) (s t : State) : Prop
  | call (e) : m.due.Allows e → t.mode.due.fits (some e) = true → t.trace = s.trace ++ [e] → CallStep m s t
  | idle : m = .lex .ld ∨ ((m = .lex .l0 ∨ m = .lex .l1) ∧ s.input = []) → t.mode.due = m.due →
      t.trace = s.trace → CallStep m s t
  | noText : m.unsent = some [] → t.mode.due = m.due → t.trace = s.trace → CallStep m s t

/-- Such a step keeps the order of R53. -/
theorem CallStep.orderInv {s t : State} (h : CallStep s.mode s t) (hi : OrderInv s) : OrderInv t := by
  obtain ⟨hok, hfit⟩ := hi
  cases h with
  | call e ha hf ht =>
    refine ⟨?_, by rw [ht, List.getLast?_concat]; exact hf⟩
    rw [ht]
    exact orderOk_append hok fun x hx => ha x (hx ▸ hfit)
  | idle _ hd ht | noText _ hd ht => exact ⟨ht ▸ hok, by rw [ht, hd]; exact hfit⟩

section Calls

variable {m : Mode} {s u t : State}

/-- A call that needs nothing before it, made where nothing is due. -/
theorem CallStep.unprompted (e : Event) (hm : m.due = .free) (he : e.unprompted = true)
    (hf : t.mode.due.fits (some e) = true) (ht : t.trace = s.trace ++ [e]) : CallStep m s t :=
  .call e (hm ▸ allows_free he) hf ht

/-- A wait that was done, where nothing or its status is due next. -/
theorem CallStep.waitDone (hm : m.due = .wait) (hw : s.waitAnswer = .done)
    (hd : t.mode.due = .free ∨ t.mode.due = .doneWait) (ht : t.trace = s.afterWait.trace) : CallStep m s t := by
  refine .call (.wait s.waitAnswer) (hm ▸ allows_wait _) ?_ ht
  rw [hw]
  rcases hd with hd | hd <;> rw [hd] <;> rfl

theorem CallStep.waitExpired (hm : m.due = .wait) (hw : s.waitAnswer = .timeout) (hd : t.mode.due = .waitReset)
    (ht : t.trace = s.afterWait.trace) : CallStep m s t :=
  .call (.wait s.waitAnswer) (hm ▸ allows_wait _) (by rw [hw, hd]; rfl) ht

theorem CallStep.released (hm : m.due = .release) (hw : s.releaseAnswer = .done) (hd : t.mode.due = .free)
    (ht : t.trace = s.afterRelease.trace) : CallStep m s t :=
  .call (.release s.releaseAnswer) (hm ▸ allows_release _) (by rw [hw, hd]; rfl) ht

theorem CallStep.releaseExpired (hm : m.due = .release) (hw : s.releaseAnswer = .timeout)
    (hd : t.mode.due = .releaseReset) (ht : t.trace = s.afterRelease.trace) : CallStep m s t :=
  .call (.release s.releaseAnswer) (hm ▸ allows_release _) (by rw [hw, hd]; rfl) ht

/-- A status read after its wait, where nothing or its byte is due next. -/
theorem CallStep.statusRead (hm : m.due = .doneWait) (hd : t.mode.due = .free ∨ t.mode.due = .status)
    (ht : t.trace = s.afterStatus.trace) : CallStep m s t := by
  refine .call (.status s.statusAnswer) (hm ▸ allows_doneWait_status _) ?_ ht
  rcases hd with hd | hd <;> rw [hd] <;> rfl

/-- The dues that a bus reset meets: an expired wait or release, or none, in `^` (R120). -/
theorem allows_reset {d : Due} (h : d = .waitReset ∨ d = .releaseReset ∨ d = .free) (a : ResetAnswer) :
    d.Allows (.reset a) := by
  rcases h with rfl | rfl | rfl
  · exact allows_waitReset a
  · exact allows_releaseReset a
  · exact allows_free rfl

theorem CallStep.resetOk (hm : m.due = .waitReset ∨ m.due = .releaseReset ∨ m.due = .free)
    (hr : s.resetAnswer = .ok) (hd : t.mode.due = .free) (ht : t.trace = s.afterReset.trace) : CallStep m s t :=
  .call (.reset s.resetAnswer) (allows_reset hm _) (by rw [hr, hd]; rfl) ht

/-- The step that ends a text sends its last byte, or had none to send. -/
theorem Sent.callStep {r : List Byte} (h : Sent s r u) (hm : m.due = .free) (hr : m.unsent = some r)
    (hd : t.mode.due = .free) (ht : t.trace = u.trace) : CallStep m s t := by
  cases h with
  | none => exact .noText hr (hd.trans hm.symm) ht
  | last b => exact .unprompted (.tx b s.sendAnswer) hm rfl (by rw [hd]; rfl) ht

end Calls

/-! ### A walk's fetch and the scanner's loop -/

theorem Walked.due {s t : State} (h : Walked (.execBcast .token) (.execBcast .stop) s t) : t.mode.due = .free := by
  cases h <;> rfl

theorem CWalked.due {s t : State} (h : CWalked s t) : t.mode.due = .free := by
  cases h <;> rfl

theorem BWalked.due {s t : State} (h : BWalked s t) : t.mode.due = .free := by
  cases h with
  | zero _ _ _ hw => exact hw.due
  | _ => rfl

theorem Probed.due {s t : State} (h : Probed s t) : t.mode.due = .free := by
  cases h <;> rfl

theorem CWalked.trace {s t : State} (h : CWalked s t) : t.trace = s.trace := by rw [h.fields]

theorem BWalked.trace {s t : State} (h : BWalked s t) : t.trace = s.trace := by rw [h.fields]

theorem Probed.trace {s t : State} (h : Probed s t) : t.trace = s.trace := by rw [h.fields]

/-! ### The sub-state that a walk's token begins at (R142) -/

theorem StartInv.not_lt {s : State} (h : StartInv s) : ¬ s.tReg.toNat < Config.startBase := Nat.not_lt.2 h

/-- The token that a sub-state of a walk belongs to. -/
theorem CheckedAt.inv_cases {p : CheckedAt} {s : State} (hp : p.inv s) (hin : p.inToken = true) :
    (p = .token ∧ (StartInv s ∨ WriteInv s)) ∨
      (p ∈ ([.startWait, .startStatus, .addr, .addrWait, .addrStatus] : List CheckedAt) ∧ StartInv s) ∨
      (((∃ r, p = .readReport r) ∨ p ∈ ([.readCall, .readWait, .readStatus, .readData] : List CheckedAt)) ∧
        ReadInv s) ∨
      (p = .writeWait ∧ WriteInv s) := by
  cases p with
  | token => exact .inl ⟨rfl, hp.2⟩
  | startWait | startStatus => exact .inr (.inl ⟨by simp, hp.2⟩)
  | addr | addrWait | addrStatus => exact .inr (.inl ⟨by simp, hp.2.1⟩)
  | readCall | readWait | readStatus | readData => exact .inr (.inr (.inl ⟨by simp, hp.2⟩))
  | readReport r => exact .inr (.inr (.inl ⟨.inl ⟨r, rfl⟩, hp.2⟩))
  | writeWait => exact .inr (.inr (.inr ⟨rfl, hp.2⟩))
  | timeout | stop | release | releaseReset | fatal => cases hin

/-- A start token takes the bus at its beginning alone. -/
theorem CheckedAt.eq_token_of_start {p : CheckedAt} {s : State} (hp : p.inv s) (hin : p.inToken = true)
    (hne : p ∉ ([.startWait, .startStatus, .addr, .addrWait, .addrStatus] : List CheckedAt))
    (ht : ¬ s.tReg.toNat < Config.startBase) : p = .token := by
  rcases inv_cases hp hin with ⟨h, -⟩ | ⟨h, -⟩ | ⟨-, hlt, -⟩ | ⟨-, hlt, -⟩
  · exact h
  · exact absurd h hne
  · exact absurd hlt ht
  · exact absurd hlt ht

/-- A byte is written at its token's beginning alone. -/
theorem CheckedAt.eq_token_of_write {p : CheckedAt} {s : State} (hp : p.inv s) (hin : p.inToken = true)
    (hne : p ≠ .writeWait) (ht : s.tReg.toNat < Config.startBase) (hr : s.rp = false) : p = .token := by
  rcases inv_cases hp hin with ⟨h, -⟩ | ⟨-, hs⟩ | ⟨-, -, hrp, -⟩ | ⟨h, -⟩
  · exact h
  · exact absurd ht hs.not_lt
  · rw [hr] at hrp; cases hrp
  · exact absurd h hne

/-- A fetched read-count is tested in the step of the fetch, so no sub-state of a walk tests one (log 1). -/
theorem CheckedAt.not_inv_count {p : CheckedAt} {s : State} (hin : p.inToken = true)
    (hrep : ∀ r, p ≠ .readReport r) (hne : p ∉ ([.readCall, .readWait, .readStatus, .readData] : List CheckedAt))
    (ht : s.tReg.toNat < Config.startBase) (hr : s.rp = true) : ¬ p.inv s := by
  intro hp
  have hwrite : ¬ WriteInv s := fun ⟨_, hrp⟩ => by rw [hr] at hrp; cases hrp
  rcases inv_cases hp hin with ⟨-, hs | hw⟩ | ⟨-, hs⟩ | ⟨⟨r, h⟩ | h, -⟩ | ⟨-, hw⟩
  · exact hs.not_lt ht
  · exact hwrite hw
  · exact hs.not_lt ht
  · exact hrep r h
  · exact hne h
  · exact hwrite hw

@[inherit_doc CheckedAt.inv_cases]
theorem BcastAt.inv_cases {p : BcastAt} {s : State} (hp : p.inv s) (hin : p.inToken = true) :
    (p = .token ∧ (StartInv s ∨ WriteInv s)) ∨
      (p ∈ ([.startWait, .addr, .addrWait, .addrStatus] : List BcastAt) ∧ StartInv s) ∨
      (((∃ r, p = .readReport r) ∨ p ∈ ([.readCall, .readWait, .readData] : List BcastAt)) ∧ ReadInv s) ∨
      (p = .writeWait ∧ WriteInv s) := by
  cases p with
  | token => exact .inl ⟨rfl, hp.2⟩
  | startWait => exact .inr (.inl ⟨by simp, hp.2⟩)
  | addr | addrWait | addrStatus => exact .inr (.inl ⟨by simp, hp.2.1⟩)
  | readCall | readWait | readData => exact .inr (.inr (.inl ⟨by simp, hp.2⟩))
  | readReport r => exact .inr (.inr (.inl ⟨.inl ⟨r, rfl⟩, hp.2⟩))
  | writeWait => exact .inr (.inr (.inr ⟨rfl, hp.2⟩))
  | timeout | stop | release | releaseReset | fatal => cases hin

@[inherit_doc CheckedAt.eq_token_of_start]
theorem BcastAt.eq_token_of_start {p : BcastAt} {s : State} (hp : p.inv s) (hin : p.inToken = true)
    (hne : p ∉ ([.startWait, .addr, .addrWait, .addrStatus] : List BcastAt))
    (ht : ¬ s.tReg.toNat < Config.startBase) : p = .token := by
  rcases inv_cases hp hin with ⟨h, -⟩ | ⟨h, -⟩ | ⟨-, hlt, -⟩ | ⟨-, hlt, -⟩
  · exact h
  · exact absurd h hne
  · exact absurd hlt ht
  · exact absurd hlt ht

@[inherit_doc CheckedAt.eq_token_of_write]
theorem BcastAt.eq_token_of_write {p : BcastAt} {s : State} (hp : p.inv s) (hin : p.inToken = true)
    (hne : p ≠ .writeWait) (ht : s.tReg.toNat < Config.startBase) (hr : s.rp = false) : p = .token := by
  rcases inv_cases hp hin with ⟨h, -⟩ | ⟨-, hs⟩ | ⟨-, -, hrp, -⟩ | ⟨h, -⟩
  · exact h
  · exact absurd ht hs.not_lt
  · rw [hr] at hrp; cases hrp
  · exact absurd h hne

@[inherit_doc CheckedAt.not_inv_count]
theorem BcastAt.not_inv_count {p : BcastAt} {s : State} (hin : p.inToken = true)
    (hrep : ∀ r, p ≠ .readReport r) (hne : p ∉ ([.readCall, .readWait, .readData] : List BcastAt))
    (ht : s.tReg.toNat < Config.startBase) (hr : s.rp = true) : ¬ p.inv s := by
  intro hp
  have hwrite : ¬ WriteInv s := fun ⟨_, hrp⟩ => by rw [hr] at hrp; cases hrp
  rcases inv_cases hp hin with ⟨-, hs | hw⟩ | ⟨-, hs⟩ | ⟨⟨r, h⟩ | h, -⟩ | ⟨-, hw⟩
  · exact hs.not_lt ht
  · exact hwrite hw
  · exact hs.not_lt ht
  · exact hrep r h
  · exact hne h
  · exact hwrite hw

theorem CheckedAt.due_of_wait {p : CheckedAt}
    (h : p ∈ ([.startWait, .addrWait, .readWait, .writeWait] : List CheckedAt)) : p.due = .wait := by
  simp only [List.mem_cons, List.not_mem_nil, or_false] at h
  rcases h with rfl | rfl | rfl | rfl <;> rfl

theorem BcastAt.due_of_wait {p : BcastAt}
    (h : p ∈ ([.startWait, .addrWait, .readWait, .writeWait] : List BcastAt)) : p.due = .wait := by
  simp only [List.mem_cons, List.not_mem_nil, or_false] at h
  rcases h with rfl | rfl | rfl | rfl <;> rfl

theorem ScanAt.due_of_wait {p : ScanAt} (h : p ∈ ([.startWait, .addrWait] : List ScanAt)) : p.due = .wait := by
  simp only [List.mem_cons, List.not_mem_nil, or_false] at h
  rcases h with rfl | rfl <;> rfl

/-- A word 0 is no start token. -/
theorem lt_startBase_of_zero {w : Word} (h : w = 0) : w.toNat < Config.startBase := by
  rw [h]; decide

/-! ### The call of each kind of step -/

/-- A step of the checked executor, whose registers agree with its token, makes the call of its sub-state (R165). -/
theorem CheckedMove.callStep {s t : State} {p : CheckedAt} (h : CheckedMove s p t) (hp : p.inv s) :
    CallStep (.execChecked p) s t := by
  cases h with
  | start hin hne ht =>
    obtain rfl := CheckedAt.eq_token_of_start hp hin hne ht
    exact .unprompted .start rfl rfl rfl rfl
  | write hin hne ht hr =>
    obtain rfl := CheckedAt.eq_token_of_write hp hin hne ht hr
    exact .unprompted (.write _) rfl rfl rfl rfl
  | count hin hrep hne ht hr => exact absurd hp (CheckedAt.not_inv_count hin hrep hne ht hr)
  | zero hin hrep hne hr h0 => exact absurd hp (CheckedAt.not_inv_count hin hrep hne (lt_startBase_of_zero h0) hr)
  | startDone hw | addrDone hw | readDone hw => exact .waitDone rfl hw (.inr rfl) rfl
  | written hw hn => exact .waitDone rfl hw (.inl hn.due) hn.trace
  | expired hmem hw => exact .waitExpired (CheckedAt.due_of_wait hmem) hw rfl rfl
  | accepted | refused | nacked | bad => exact .statusRead rfl (.inl rfl) rfl
  | good => exact .statusRead rfl (.inr rfl) rfl
  | addressed _ hn => exact .statusRead rfl (.inl hn.due) hn.trace
  | addr => exact .unprompted (.write _) rfl rfl rfl rfl
  | nack => exact .unprompted .nack rfl rfl rfl rfl
  | ack => exact .unprompted .ack rfl rfl rfl rfl
  | data => exact .call (.read _) (allows_status_read _) rfl rfl
  | more => exact .unprompted (.tx _ _) rfl rfl rfl rfl
  | again hu => exact hu.callStep rfl rfl rfl rfl
  | readEnd hu _ hn => exact hu.callStep rfl rfl hn.due hn.trace
  | reset hr => exact .resetOk (.inl rfl) hr rfl rfl
  | stop => exact .unprompted .stop rfl rfl rfl rfl
  | released hw => exact .released rfl hw rfl rfl
  | held hw => exact .releaseExpired rfl hw rfl rfl
  | releaseReset hr => exact .resetOk (.inr (.inl rfl)) hr rfl rfl

/-- A step of the Broadcast executor, whose registers agree with its token, makes the call of its sub-state (R170). -/
theorem BcastMove.callStep {s t : State} {p : BcastAt} (h : BcastMove s p t) (hp : p.inv s) :
    CallStep (.execBcast p) s t := by
  cases h with
  | start hin hne ht =>
    obtain rfl := BcastAt.eq_token_of_start hp hin hne ht
    exact .unprompted .start rfl rfl rfl rfl
  | write hin hne ht hr =>
    obtain rfl := BcastAt.eq_token_of_write hp hin hne ht hr
    exact .unprompted (.write _) rfl rfl rfl rfl
  | count hin hrep hne ht hr => exact absurd hp (BcastAt.not_inv_count hin hrep hne ht hr)
  | zero hin hrep hne hr h0 => exact absurd hp (BcastAt.not_inv_count hin hrep hne (lt_startBase_of_zero h0) hr)
  | startDone hw => exact .waitDone rfl hw (.inl rfl) rfl
  | addrDone hw | readDone hw => exact .waitDone rfl hw (.inr rfl) rfl
  | written hw hn => exact .waitDone rfl hw (.inl hn.due) hn.trace
  | expired hmem hw => exact .waitExpired (BcastAt.due_of_wait hmem) hw rfl rfl
  | addressed hn => exact .statusRead rfl (.inl hn.due) hn.trace
  | addr => exact .unprompted (.write _) rfl rfl rfl rfl
  | nack => exact .unprompted .nack rfl rfl rfl rfl
  | ack => exact .unprompted .ack rfl rfl rfl rfl
  | data => exact .call (.read _) (allows_doneWait_read _) rfl rfl
  | more => exact .unprompted (.tx _ _) rfl rfl rfl rfl
  | again hu => exact hu.callStep rfl rfl rfl rfl
  | readEnd hu _ hn => exact hu.callStep rfl rfl hn.due hn.trace
  | reset hr => exact .resetOk (.inl rfl) hr rfl rfl
  | stop => exact .unprompted .stop rfl rfl rfl rfl
  | released hw => exact .released rfl hw rfl rfl
  | held hw => exact .releaseExpired rfl hw rfl rfl
  | releaseReset hr => exact .resetOk (.inr (.inl rfl)) hr rfl rfl

/-- A step of the scanner makes the call of its sub-state (R185). -/
theorem ScanMove.callStep {s t : State} {p : ScanAt} (h : ScanMove s p t) : CallStep (.adminop (.scan p)) s t := by
  cases h with
  | start => exact .unprompted .start rfl rfl rfl rfl
  | startDone hw | addrDone hw => exact .waitDone rfl hw (.inr rfl) rfl
  | expired hmem hw => exact .waitExpired (ScanAt.due_of_wait hmem) hw rfl rfl
  | accepted | refused | found => exact .statusRead rfl (.inl rfl) rfl
  | absent _ hn => exact .statusRead rfl (.inl hn.due) hn.trace
  | addr => exact .unprompted (.write _) rfl rfl rfl rfl
  | more => exact .unprompted (.tx _ _) rfl rfl rfl rfl
  | reported hu hn => exact hu.callStep rfl rfl hn.due hn.trace
  | reset hr => exact .resetOk (.inl rfl) hr rfl rfl
  | stop => exact .unprompted .stop rfl rfl rfl rfl
  | released hw => exact .released rfl hw rfl rfl
  | held hw => exact .releaseExpired rfl hw rfl rfl
  | releaseReset hr => exact .resetOk (.inr (.inl rfl)) hr rfl rfl

/-- Where a report or text is sent nothing is due. -/
theorem AdminAt.due_of_saying {p : AdminAt} (h : p.saying = true) : (Mode.adminop p).due = .free := by
  cases p with
  | scan | errReset | errFatal | setSpeed => cases h
  | _ => rfl

/-- A step of another command makes the call of its sub-state (R119 to R128). -/
theorem AdminMove.callStep {s t : State} {p : AdminAt} (h : AdminMove s p t) : CallStep (.adminop p) s t := by
  cases h with
  | more _ hp hq =>
    refine .unprompted (.tx _ _) (AdminAt.due_of_saying hp) rfl ?_ rfl
    rw [State.goto_mode, AdminAt.due_of_saying hq]
    rfl
  | said hp hr hu => exact hu.callStep (AdminAt.due_of_saying hp) hr rfl rfl
  | clear hu => exact hu.callStep rfl rfl rfl rfl
  | star hu => exact hu.callStep rfl rfl rfl rfl
  | reset hr => exact .resetOk (.inr (.inr rfl)) hr rfl rfl
  | speed m hm =>
    refine .unprompted (.setSpeed _) rfl rfl ?_ rfl
    rcases hm with rfl | ⟨r, -, rfl⟩ <;> rfl

/-- Where a received byte leads nothing is due. -/
theorem Lexed.due {v t : State} {b : Byte} (h : Lexed v b t) (hm : v.mode = .lex .l1) : t.mode.due = .free := by
  cases h with
  | digit | append | ignore => exact congrArg Mode.due hm
  | silent | eol | scan => rfl
  | command _ p hp =>
    rcases hp with ⟨hp, -⟩ | ⟨u, rfl⟩
    · exact AdminAt.due_of_saying hp
    · rfl
  | star m _ hs => rcases hs with rfl | ⟨r, -, rfl⟩ <;> rfl

theorem AtLine.due {s u : State} (h : AtLine s u) : s.mode.due = .free := by
  rcases h.mode_eq with hm | hm <;> rw [hm] <;> rfl

/-- A failed reset leaves the fatal entry due (R227). -/
theorem due_failed {m : Mode} (h : m ∈ resetModes) :
    (m.due = .waitReset ∨ m.due = .releaseReset ∨ m.due = .free) ∧ m.failed.due = .resetFail := by
  simp only [resetModes, List.mem_cons, List.not_mem_nil, or_false] at h
  rcases h with rfl | rfl | rfl | rfl | rfl | rfl | rfl
  all_goals exact ⟨by decide, rfl⟩

theorem due_of_fatalModes {m : Mode} (h : m ∈ fatalModes) : m.due = .resetFail := by
  simp only [fatalModes, List.mem_cons, List.not_mem_nil, or_false] at h
  rcases h with rfl | rfl | rfl | rfl <;> rfl

/-- Every step makes the call that is due, or stands where none is made. -/
theorem Move.callStep {s t : State} (h : Move s t) (hw : WalkInv s) : CallStep s.mode s t := by
  cases h with
  | waiting hl hi =>
    refine .idle (.inr ⟨hl.mode_eq, ?_⟩) ?_ (by rw [hl.fields])
    · rw [← hi, hl.fields]
    · rw [hl.mode, hl.due]; rfl
  | overflow hm => rw [hm]; exact .unprompted (.fatal _) rfl rfl rfl rfl
  | @received _ b _ _ hr hl =>
    have ht : t.trace = s.trace ++ [.rx b] := by rw [hl.position.2, hr.fields]
    exact .unprompted (.rx b) hr.atLine.due rfl (by rw [hl.due hr.mode]; rfl) ht
  | newLine hm => rw [hm]; exact .idle (.inl rfl) rfl rfl
  | checkedWalk hm _ _ hn => rw [hm]; exact .idle (.inl rfl) hn.due hn.trace
  | bcastWalk hm _ _ hn => rw [hm]; exact .idle (.inl rfl) hn.due hn.trace
  | admin hm _ ha => rw [hm]; exact ha.callStep
  | scan hm hs => rw [hm]; exact hs.callStep
  | checked hm hc => rw [hm]; exact hc.callStep (walkInv_of_checked hm hw).2
  | bcast hm hb => rw [hm]; exact hb.callStep (walkInv_of_bcast hm hw).2
  | resetFailed hm hr =>
    obtain ⟨hd, hf⟩ := due_failed hm
    exact .call (.reset s.resetAnswer) (allows_reset hd _) (by rw [hr, State.goto_mode, hf]; rfl) rfl
  | fatal hm => exact .call (.fatal _) (due_of_fatalModes hm ▸ allows_resetFail _) rfl rfl

/-- Settles O54: every step makes a call that is due, or none and leaves due what was. -/
theorem stepKeepsTheEventOrder : Obligations.StepKeepsTheEventOrder := by
  intro s t hw hi h
  exact ((step_move h).callStep hw).orderInv hi

/-! ### A text under way has a byte left (R203) -/

/-- The report of a byte has one. -/
theorem hexReport_ne_nil (b : Byte) : hexReport b ≠ [] := by
  simp [hexReport]

theorem readOutput_ne_nil (last : Bool) (b : Byte) : readOutput last b ≠ [] := by
  simp [readOutput, hexReport_ne_nil]

/-- A mode that sends `r` next. -/
theorem sendInv_of_ne_nil {t : State} {r : List Byte} (h : t.mode.unsent = some r) (hr : r ≠ []) : SendInv t := by
  intro hn
  rw [h] at hn
  exact hr (Option.some.inj hn)

theorem Walked.sendInv {s t : State} (h : Walked (.execBcast .token) (.execBcast .stop) s t) : SendInv t := by
  cases h <;> exact nofun

theorem CWalked.sendInv {s t : State} (h : CWalked s t) : SendInv t := by
  cases h <;> exact nofun

theorem BWalked.sendInv {s t : State} (h : BWalked s t) : SendInv t := by
  cases h with
  | zero _ _ _ hw => exact hw.sendInv
  | _ => exact nofun

theorem Probed.sendInv {s t : State} (h : Probed s t) : SendInv t := by
  cases h <;> exact nofun

theorem CheckedMove.sendInv {s t : State} {p : CheckedAt} (h : CheckedMove s p t) : SendInv t := by
  cases h with
  | addressed _ hn | written _ hn | readEnd _ _ hn => exact hn.sendInv
  | data => exact sendInv_of_ne_nil rfl (readOutput_ne_nil _ _)
  | more => exact sendInv_of_ne_nil rfl (List.cons_ne_nil _ _)
  | _ => exact nofun

theorem BcastMove.sendInv {s t : State} {p : BcastAt} (h : BcastMove s p t) : SendInv t := by
  cases h with
  | addressed hn | written _ hn | readEnd _ _ hn | zero _ _ _ _ _ hn => exact hn.sendInv
  | data => exact sendInv_of_ne_nil rfl (readOutput_ne_nil _ _)
  | more => exact sendInv_of_ne_nil rfl (List.cons_ne_nil _ _)
  | _ => exact nofun

theorem ScanMove.sendInv {s t : State} {p : ScanAt} (h : ScanMove s p t) : SendInv t := by
  cases h with
  | absent _ hn | reported _ hn => exact hn.sendInv
  | found => exact sendInv_of_ne_nil rfl (hexReport_ne_nil _)
  | more => exact sendInv_of_ne_nil rfl (List.cons_ne_nil _ _)
  | _ => exact nofun

theorem AdminMove.sendInv {s t : State} {p : AdminAt} (h : AdminMove s p t) : SendInv t := by
  cases h with
  | more _ _ _ hq => exact hq
  | said | clear | reset | star => exact nofun
  | speed m hm =>
    rcases hm with rfl | ⟨r, hr, rfl⟩
    · exact nofun
    · exact sendInv_of_ne_nil rfl hr

theorem Lexed.sendInv {v t : State} {b : Byte} (h : Lexed v b t) (hm : v.mode = .lex .l1) : SendInv t := by
  cases h with
  | digit | append | ignore =>
    show v.mode.unsent ≠ some []
    rw [hm]; exact nofun
  | silent | eol | scan => exact nofun
  | command _ p hp =>
    rcases hp with ⟨-, hp⟩ | ⟨u, rfl⟩
    · exact hp
    · exact nofun
  | star m _ hs =>
    rcases hs with rfl | ⟨r, hr, rfl⟩
    · exact nofun
    · exact sendInv_of_ne_nil rfl hr

theorem unsent_failed {m : Mode} (h : m ∈ resetModes) : m.failed.unsent = none := by
  simp only [resetModes, List.mem_cons, List.not_mem_nil, or_false] at h
  rcases h with rfl | rfl | rfl | rfl | rfl | rfl | rfl <;> rfl

/-- Every step leads to a mode with a byte to send, or with no text: a text is begun only where it has a byte, and
its last byte ends it. -/
theorem Move.sendInv {s t : State} (h : Move s t) : SendInv t := by
  cases h with
  | waiting hl =>
    show t.mode.unsent ≠ some []
    rw [hl.mode]; exact nofun
  | overflow | newLine | fatal => exact nofun
  | received hr hl => exact hl.sendInv hr.mode
  | checkedWalk _ _ _ hn => exact hn.sendInv
  | bcastWalk _ _ _ hn => exact hn.sendInv
  | admin _ _ ha => exact ha.sendInv
  | scan _ hs => exact hs.sendInv
  | checked _ hc => exact hc.sendInv
  | bcast _ hb => exact hb.sendInv
  | resetFailed hm _ =>
    show s.mode.failed.unsent ≠ some []
    rw [unsent_failed hm]; exact nofun

/-! ### At most one call a step (R12, R52) -/

/-- A step leaves the trace as it is or adds one call to it, from any state. -/
theorem Move.trace {s t : State} (h : Move s t) : t.trace = s.trace ∨ ∃ e, t.trace = s.trace ++ [e] := by
  cases h.session with
  | keeps hk => exact hk.calls.imp id fun ⟨e, _, ht⟩ => ⟨e, ht⟩
  | @received _ _ b hr hl => exact .inr ⟨.rx b, by rw [hl.position.2, hr.fields]⟩
  | speed _ _ _ _ _ _ ht => exact .inr ⟨_, ht⟩

/-- Settles O51: under the invariants a step with no call is the dispatch or the wait, as a text has a byte left. -/
theorem stepAddsAtMostOneCall : Obligations.StepAddsAtMostOneCall := by
  intro s t h
  have hm := step_move h
  refine ⟨hm.trace, fun hw hs ht => ?_, fun _ => hm.sendInv⟩
  cases hm.callStep hw with
  | call e _ _ hc =>
    rw [ht] at hc
    exact absurd hc.symm (by simp)
  | idle hi => exact hi
  | noText hn => exact absurd hn hs

end Sys2Proof.Machine

/-! ## Encoding and decoding (30_encoding.md) -/

namespace Sys2Proof.Machine

/-! ### Received bytes (R61 to R67) -/

/-- The bytes of the character rows are the listed ones (R62, R83). -/
theorem charRows_bytes : charRows.map Prod.fst = listedBytes := rfl

/-- A byte that no row lists is ignored (R67). -/
theorem decodeChar_of_not_listed {b : Byte} (h : b ∉ listedBytes) : decodeChar b = .ignore b := by
  have hnone : charRows.lookup b = none := by
    rw [List.lookup_eq_none_iff]
    intro p hp
    rw [bne_iff_ne]
    rintro rfl
    exact h (charRows_bytes ▸ List.mem_map_of_mem hp)
  rw [decodeChar, hnone, Option.getD_none]

/-- A received byte decodes to its row, or to IGNORE where it is not listed (R64, R83). -/
theorem decodeChar_cases (b : Byte) :
    (b, decodeChar b) ∈ charRows ∨ (b ∉ listedBytes ∧ decodeChar b = .ignore b) := by
  cases hl : charRows.lookup b with
  | some i =>
    obtain ⟨l₁, l₂, hrows, -⟩ := List.lookup_eq_some_iff.1 hl
    refine .inl ?_
    rw [decodeChar, hl, Option.getD_some, hrows]
    simp
  | none =>
    have hb : b ∉ listedBytes := by
      rw [← charRows_bytes, List.mem_map]
      rintro ⟨p, hp, rfl⟩
      exact bne_iff_ne.1 (List.lookup_eq_none_iff.1 hl p hp) rfl
    exact .inr ⟨hb, decodeChar_of_not_listed hb⟩

theorem wellFormed_ignore_iff (b : Byte) : (Instr.ignore b).wellFormed = true ↔ b ∉ listedBytes := by
  simp [Instr.wellFormed]

/-- Every character row is encoded as its byte, well formed, and fits either read phase. -/
theorem charRows_encode (rp : Bool) :
    ∀ p ∈ charRows, encode p.2 = .char p.1 ∧ p.2.wellFormed = true ∧ p.2.fits rp = true := by
  cases rp <;> decide

/-! ### Start tokens (R69 to R71) -/

/-- The fields of a start token are the parts of its word less 1000 (R70). -/
theorem startOffset_hi (hi : Byte) (a : Address) (d : Bool) : (startOffset hi a d).extractLsb' 8 8 = hi := by
  have hv := Laws.startOffset_toNat hi a d
  have hd : d.toNat < 2 := d.toNat_lt
  have hh := hi.isLt
  have ha := a.isLt
  refine BitVec.eq_of_toNat_eq ?_
  rw [BitVec.extractLsb'_toNat, hv, Nat.shiftRight_eq_div_pow]
  omega

@[inherit_doc startOffset_hi]
theorem startOffset_address (hi : Byte) (a : Address) (d : Bool) : (startOffset hi a d).extractLsb' 1 7 = a := by
  have hv := Laws.startOffset_toNat hi a d
  have hd : d.toNat < 2 := d.toNat_lt
  have ha := a.isLt
  refine BitVec.eq_of_toNat_eq ?_
  rw [BitVec.extractLsb'_toNat, hv, Nat.shiftRight_eq_div_pow]
  omega

@[inherit_doc startOffset_hi]
theorem startOffset_direction (hi : Byte) (a : Address) (d : Bool) : (startOffset hi a d).getLsbD 0 = d := by
  rw [startOffset, BitVec.getLsbD_append]
  cases d <;> rfl

/-- A word is put together again from its three fields (R70, R71). -/
theorem startOffset_fields (o : Word) : startOffset (o.extractLsb' 8 8) (o.extractLsb' 1 7) (o.getLsbD 0) = o := by
  have hd : (o.getLsbD 0).toNat = o.toNat % 2 := by
    rw [BitVec.getLsbD, Nat.testBit_zero]
    rcases Nat.mod_two_eq_zero_or_one o.toNat with h | h <;> simp [h]
  have ho := o.isLt
  refine BitVec.eq_of_toNat_eq ?_
  rw [Laws.startOffset_toNat, hd, BitVec.extractLsb'_toNat, BitVec.extractLsb'_toNat, Nat.shiftRight_eq_div_pow,
    Nat.shiftRight_eq_div_pow]
  omega

/-- A start token fits either read phase. -/
theorem fits_startInstr (rp : Bool) (hi : Byte) (a : Address) (d : Bool) : (startInstr hi a d).fits rp = true := by
  cases d <;> rfl

/-- A start token is well formed where its word does not wrap (R69). -/
theorem wellFormed_startInstr_iff (hi : Byte) (a : Address) (d : Bool) :
    (startInstr hi a d).wellFormed = true ↔ Config.startBase + (startOffset hi a d).toNat < 65536 := by
  cases d <;> exact decide_eq_true_iff

theorem encode_startInstr (hi : Byte) (a : Address) (d : Bool) :
    encode (startInstr hi a d) = .word (BitVec.ofNat 16 Config.startBase + startOffset hi a d) := by
  cases d <;> rfl

/-- A word of 1000 or above decodes to the start token of its fields (R69, R71). -/
theorem decodeWord_eq_startInstr (rp : Bool) {t o : Word} (h : ¬ t.toNat < Config.startBase)
    (ho : t - BitVec.ofNat 16 Config.startBase = o) :
    decodeWord rp t = startInstr (o.extractLsb' 8 8) (o.extractLsb' 1 7) (o.getLsbD 0) := by
  rw [decodeWord, if_neg h, ← ho]
  rfl

/-- Decoding the word of a start token gives the token (R70, R71). -/
theorem decodeWord_startWord (rp : Bool) {hi : Byte} {a : Address} {d : Bool}
    (h : Config.startBase + (startOffset hi a d).toNat < 65536) :
    decodeWord rp (BitVec.ofNat 16 Config.startBase + startOffset hi a d) = startInstr hi a d := by
  have hword := Laws.startWord_toNat hi a d h
  have hbase : ¬ (BitVec.ofNat 16 Config.startBase + startOffset hi a d).toNat < Config.startBase := by
    rw [hword]; exact Nat.not_lt.2 (Nat.le_add_right _ _)
  have hsub : BitVec.ofNat 16 Config.startBase + startOffset hi a d - BitVec.ofNat 16 Config.startBase =
      startOffset hi a d := BitVec.sub_eq_iff_eq_add.2 (BitVec.add_comm _ _)
  rw [decodeWord_eq_startInstr rp hbase hsub, startOffset_hi, startOffset_address, startOffset_direction]

/-- From a word of 1000 or above, taking 1000 away does not wrap (R69). -/
theorem sub_startBase_toNat {t : Word} (h : ¬ t.toNat < Config.startBase) :
    (t - BitVec.ofNat 16 Config.startBase).toNat = t.toNat - 1000 := by
  have hb : Config.startBase = 1000 := rfl
  have ht := t.isLt
  rw [BitVec.toNat_sub, BitVec.toNat_ofNat]
  omega

/-! ### Round trips (R83) -/

/-- Settles O1: by the instruction; a start token by the fields of its word, a data token because it is below 1000. -/
theorem decodeOfEncodeIsTheInstruction : Obligations.DecodeOfEncodeIsTheInstruction := by
  intro rp i hwf hfits
  cases i with
  | ignore b => exact decodeChar_of_not_listed ((wellFormed_ignore_iff b).1 hwf)
  | startW hi a => exact decodeWord_startWord rp ((wellFormed_startInstr_iff hi a false).1 hwf)
  | startR hi a => exact decodeWord_startWord rp ((wellFormed_startInstr_iff hi a true).1 hwf)
  | readCount n => exact (decodeWord_data (of_decide_eq_true hwf)).trans (if_pos hfits)
  | dataWrite v =>
    have hrp : ¬ rp = true := by simpa [Instr.fits] using hfits
    exact (decodeWord_data (of_decide_eq_true hwf)).trans (if_neg hrp)
  | _ => rfl

/-- A received byte decodes well formed and encodes back. -/
theorem decodeChar_encode (rp : Bool) (b : Byte) :
    encode (decodeChar b) = .char b ∧ (decodeChar b).wellFormed = true ∧ (decodeChar b).fits rp = true := by
  rcases decodeChar_cases b with hrow | ⟨hb, hd⟩
  · exact charRows_encode rp _ hrow
  · rw [hd]
    exact ⟨rfl, (wellFormed_ignore_iff b).2 hb, rfl⟩

/-- A Command Word decodes well formed and encodes back, a data token in its own read phase (R73, R74). -/
theorem decodeWord_encode (rp : Bool) (t : Word) :
    encode (decodeWord rp t) = .word t ∧ (decodeWord rp t).wellFormed = true ∧ (decodeWord rp t).fits rp = true := by
  by_cases h : t.toNat < Config.startBase
  · rw [decodeWord_data h]
    cases rp <;> exact ⟨rfl, decide_eq_true h, rfl⟩
  · have hsub := sub_startBase_toNat h
    rw [decodeWord_eq_startInstr rp h rfl]
    refine ⟨?_, ?_, fits_startInstr _ _ _ _⟩
    · rw [encode_startInstr, startOffset_fields, BitVec.add_comm, BitVec.sub_add_cancel]
    · have hb : Config.startBase = 1000 := rfl
      have ht := t.isLt
      rw [wellFormed_startInstr_iff, startOffset_fields, hsub]
      omega

/-- Settles O2: the byte and the word apart. -/
theorem encodeOfDecodeIsTheCode : Obligations.EncodeOfDecodeIsTheCode := by
  intro rp c
  cases c with
  | char b => exact decodeChar_encode rp b
  | word w => exact decodeWord_encode rp w

/-- An address byte is the address in bits 7..1 and the direction in bit 0 (R71, R75). -/
theorem addrByte_toNat (a : Address) (d : Bool) : (addrByte a d).toNat = 2 * a.toNat + d.toNat := by
  have hd : (BitVec.ofBool d).toNat = d.toNat := by cases d <;> rfl
  rw [addrByte, BitVec.toNat_append, hd, ← Nat.shiftLeft_add_eq_or_of_lt d.toNat_lt, Nat.shiftLeft_eq]
  omega

/-- Settles O6: the two directions of `decodeWord_start`, as numbers. -/
theorem addressByteIsTheLowByteOfTheOffset : Obligations.AddressByteIsTheLowByteOfTheOffset := by
  intro rp t ht
  have hbase : ¬ t.toNat < Config.startBase := Nat.not_lt.2 ht
  have hlow : ((t - BitVec.ofNat 16 Config.startBase).setWidth 8).toNat = (t.toNat - 1000) % 256 := by
    rw [BitVec.toNat_setWidth, sub_startBase_toNat hbase]
  obtain ⟨hi, a, ⟨hd, hab⟩ | ⟨hd, hab⟩⟩ := decodeWord_start (rp := rp) hbase
  · exact ⟨hi, a, false, hd, (congrArg BitVec.toNat hab).trans hlow, addrByte_toNat a false⟩
  · exact ⟨hi, a, true, hd, (congrArg BitVec.toNat hab).trans hlow, addrByte_toNat a true⟩

/-! ### Written codes and the lexer's start tokens (R63, R64, R70, R82) -/

/-- Settles O3, which is `decodeChar_charClass`. -/
theorem decoderFollowsFoldingAndClass : Obligations.DecoderFollowsFoldingAndClass := decodeChar_charClass

/-- Settles O4: the bytes by their rows, the words by the fields of a start token or as data tokens. -/
theorem writtenCodesDecode : Obligations.WrittenCodesDecode :=
  ⟨rfl, rfl, decodeWord_startWord (hi := 0) (a := 0x50) (d := false) false (by decide),
    decodeWord_startWord (hi := 0) (a := 0x50) (d := true) true (by decide),
    decodeWord_data (by decide), decodeWord_data (by decide)⟩

/-- The fields 0, `ACC[6:0]` and a direction, as a number (R70, D3). -/
theorem startOffset_acc_toNat (acc : Byte) (d : Bool) :
    (startOffset 0 (acc.setWidth 7) d).toNat = 2 * (acc.toNat % 128) + d.toNat := by
  have h0 : (0 : Byte).toNat = 0 := rfl
  rw [Laws.startOffset_toNat, BitVec.toNat_setWidth, h0]
  omega

theorem startOffset_acc_lt (acc : Byte) (d : Bool) :
    Config.startBase + (startOffset 0 (acc.setWidth 7) d).toNat < 65536 := by
  have hb : Config.startBase = 1000 := rfl
  have hd := d.toNat_lt
  rw [startOffset_acc_toNat]
  omega

/-- The start token the lexer builds is the word of the fields 0, `ACC[6:0]` and the direction (R70, D3). -/
theorem startToken_eq (acc : Byte) (d : Bool) :
    startToken acc d = BitVec.ofNat 16 Config.startBase + startOffset 0 (acc.setWidth 7) d := by
  refine BitVec.eq_of_toNat_eq ?_
  rw [startToken_toNat, Laws.startWord_toNat _ _ _ (startOffset_acc_lt acc d), startOffset_acc_toNat]

/-- Settles O5: the value, and from it the range and the parity; the decoding by the fields. -/
theorem startTokenIsItsAddressAndDirection : Obligations.StartTokenIsItsAddressAndDirection := by
  intro rp acc d
  have hv := startToken_toNat acc d
  have hd := d.toNat_lt
  refine ⟨hv, by omega, by omega, ?_, ?_⟩
  · rw [hv, ← Bool.toNat_eq_zero]
    omega
  · rw [startToken_eq, decodeWord_startWord rp (startOffset_acc_lt acc d)]
    rfl

end Sys2Proof.Machine

/-! ## A complete sweep (44_scanner.md R186 to R197) -/

namespace Sys2Proof.Machine

/-! ### The probe of one address (R187 to R189) -/

/-- What the probe of an address reports: the address if its status acknowledges it, else nothing (R189, R196). -/
def probeReport (y a : Byte) : List Byte := if y = Config.stAwAck then hexReport a else []

/-- A start of the sweep that is accepted (R187). -/
theorem step_scan_accepted {s : State} {x : Byte} {ss : List Byte} (hm : s.mode = .adminop (.scan .startStatus))
    (h : s.env.statuses = x :: ss) (hx : startAccepted x = true) :
    step s = .next { s with sReg := x, env := { s.env with statuses := ss }, draws := s.draws + 1,
                            trace := s.trace ++ [.status x], mode := scanMode .addr } := by
  rw [step_scan hm, scanCall, statusAnswer_eq h, if_pos hx, afterStatus_eq h]; rfl

theorem step_scan_addr {s : State} (hm : s.mode = .adminop (.scan .addr)) :
    step s = .next ((s.busWrite (scanByte s.aReg)).goto (scanMode .addrWait)) := step_scan hm

/-- The address status begins the probe's report, which may be empty (R189). -/
theorem step_scan_addrStatus {s : State} {y : Byte} {ss : List Byte} (hm : s.mode = .adminop (.scan .addrStatus))
    (h : s.env.statuses = y :: ss) :
    step s = .next (beginText (fun r => scanMode (.report r)) (probeReport y s.aReg) scanAdvance
      { s with sReg := y, env := { s.env with statuses := ss }, draws := s.draws + 1,
               trace := s.trace ++ [.status y] }) := by
  rw [step_scan hm, scanCall, statusAnswer_eq h, afterStatus_eq h, probeReport]
  split <;> rfl

theorem step_scan_report {s : State} {r : List Byte} (hm : s.mode = scanMode (.report r)) :
    step s = sendText (fun r => scanMode (.report r)) r (fun s => .next (scanAdvance s)) s := step_scan hm

/-- The six calls of a probe (R187, R188). -/
def probeCalls (x y a : Byte) : List Event :=
  [.start, .wait .done, .status x, .write (scanByte a), .wait .done, .status y]

/-- The state after the probe of `A`, its report sent, before the loop goes on. -/
def State.afterProbe (s : State) (x y : Byte) (ws : List WaitAnswer) (ss : List Byte) (es : List Event) : State :=
  { s with sReg := y, busHeld := true,
           env := { s.env with waits := ws, statuses := ss,
                               sends := s.env.sends.drop (probeReport y s.aReg).length },
           draws := s.draws + 4 + (probeReport y s.aReg).length,
           trace := s.trace ++ probeCalls x y s.aReg ++ es }

/-- The probe of one address, its start accepted: six steps and one for each byte it reports (R187 to R189). -/
theorem probe_run {s : State} {x y : Byte} {ws : List WaitAnswer} {ss : List Byte}
    (hm : s.mode = .adminop (.scan .start)) (hx : startAccepted x = true) (hw : s.env.waits = .done :: .done :: ws)
    (hs : s.env.statuses = x :: y :: ss) :
    ∃ es, SendEvents (probeReport y s.aReg) es ∧
      Reaches (6 + (probeReport y s.aReg).length) s (scanAdvance (s.afterProbe x y ws ss es)) := by
  obtain ⟨es, hes, hreport⟩ := beginText_sends (fun _ _ => step_scan_report) (fun _ _ => rfl) (probeReport y s.aReg)
    { s with sReg := y, busHeld := true, env := { s.env with waits := ws, statuses := ss }, draws := s.draws + 4,
             trace := s.trace ++ probeCalls x y s.aReg, mode := scanMode .addrStatus }
  refine ⟨es, hes, reaches_trans ?_ hreport⟩
  refine reaches_succ (step_scan_start hm) (reaches_succ ((step_scan_startWait rfl).trans (scanWait_done hw)) ?_)
  refine reaches_succ (step_scan_accepted rfl hs hx) (reaches_succ (step_scan_addr rfl) ?_)
  refine reaches_succ ((step_scan_addrWait rfl).trans (scanWait_done rfl)) ?_
  refine reaches_succ (step_scan_addrStatus rfl rfl) (reaches_of_eq ?_)
  simp [State.busWrite, State.emit, State.goto, probeCalls]

/-! ### The sweep of the addresses from one on (R190) -/

theorem scanLoop_more {s : State} {a : Nat} (ha : s.aReg = BitVec.ofNat 8 a) (hlt : a < Config.scanCount) :
    scanLoop s = s.goto (scanMode .start) := by
  refine if_neg ?_
  have hcount := scanCount_cases
  rw [ha, BitVec.toNat_ofNat]
  omega

theorem scanLoop_done {s : State} (ha : s.aReg = BitVec.ofNat 8 Config.scanCount) :
    scanLoop s = s.goto (scanMode .stop) := by
  refine if_pos ?_
  have hcount := scanCount_cases
  rw [ha, BitVec.toNat_ofNat]
  omega

/-- The byte of a probe is twice its address (R188). -/
theorem scanByte_ofNat (a : Nat) : scanByte (BitVec.ofNat 8 a) = BitVec.ofNat 8 (2 * a) := by
  refine BitVec.eq_of_toNat_eq ?_
  rw [scanByte, BitVec.toNat_shiftLeft, BitVec.toNat_ofNat, BitVec.toNat_ofNat, Nat.shiftLeft_eq]
  omega

/-- The events of a sent text without its send statuses (R203, R204). -/
theorem SendEvents.plain {txt : List Byte} {es : List Event} (h : SendEvents txt es) :
    es.map Event.plain = txt.map (Event.tx · .sent) := by
  obtain ⟨answers, hlen, rfl⟩ := h
  induction txt generalizing answers with
  | nil => rfl
  | cons b r ih =>
    cases answers with
    | nil => simp at hlen
    | cons a answers =>
      rw [List.zipWith_cons_cons, List.map_cons, List.map_cons, ih answers (Nat.succ.inj hlen)]
      rfl

/-- The calls of the probe of address `a` and its report are the events of R197. -/
theorem probeEvents_eq (g f : Nat → Byte) (a : Nat) :
    probeEvents g f a = probeCalls (g a) (f a) (BitVec.ofNat 8 a) ++
      (probeReport (f a) (BitVec.ofNat 8 a)).map (Event.tx · .sent) := by
  rw [probeEvents, probeCalls, scanByte_ofNat, probeReport]
  split <;> rfl

/-- What the `k` probes from address `a` on report. -/
def reportsFrom (f : Nat → Byte) (a k : Nat) : List Byte :=
  (List.range' a k).flatMap fun b => probeReport (f b) (BitVec.ofNat 8 b)

/-- `t` is the cleanup to which the `k` probes from address `a` on lead from the loop test of `s`: every one was made,
and nothing but the sweep's own registers, the environment and the record of the calls has changed. -/
structure Swept (g f : Nat → Byte) (a k : Nat) (s t : State) : Prop where
  reaches : Reaches (6 * k + (reportsFrom f a k).length) (scanLoop s) t
  events : ∃ es, t.trace = s.trace ++ es ∧ es.map Event.plain = (List.range' a k).flatMap (probeEvents g f)
  releases : t.env.releases = s.env.releases
  frame : t = { s with aReg := BitVec.ofNat 8 (a + k), sReg := t.sReg, busHeld := t.busHeld, env := t.env,
                       draws := t.draws, trace := t.trace, mode := scanMode .stop }

/-- After the last address the loop goes to the cleanup (R190). -/
theorem swept_nil {g f : Nat → Byte} {a : Nat} {s : State} (ha : s.aReg = BitVec.ofNat 8 a)
    (hk : a = Config.scanCount) : Swept g f a 0 s (s.goto (scanMode .stop)) where
  reaches := reaches_of_eq (scanLoop_done (hk ▸ ha))
  events := ⟨[], (List.append_nil _).symm, rfl⟩
  releases := rfl
  frame := by rw [Nat.add_zero, ← ha]; rfl

/-- A probe before the sweep of the addresses that follow it. -/
theorem Swept.cons {g f : Nat → Byte} {a k : Nat} {s t : State} {ws : List WaitAnswer} {ss : List Byte}
    {es : List Event} (ha : s.aReg = BitVec.ofNat 8 a) (hlt : a < Config.scanCount)
    (hes : SendEvents (probeReport (f a) s.aReg) es)
    (hrun : Reaches (6 + (probeReport (f a) s.aReg).length) (s.goto (scanMode .start))
      (scanAdvance (s.afterProbe (g a) (f a) ws ss es)))
    (h : Swept g f (a + 1) k { s.afterProbe (g a) (f a) ws ss es with aReg := s.aReg + 1 } t) :
    Swept g f a (k + 1) s t where
  reaches := by
    have hsteps : 6 * (k + 1) + (reportsFrom f a (k + 1)).length =
        6 + (probeReport (f a) s.aReg).length + (6 * k + (reportsFrom f (a + 1) k).length) := by
      rw [reportsFrom, List.range'_succ, List.flatMap_cons, List.length_append, ← ha, ← reportsFrom]
      omega
    rw [hsteps, scanLoop_more ha hlt]
    exact reaches_trans hrun h.reaches
  events := by
    obtain ⟨es', ht, hes'⟩ := h.events
    refine ⟨probeCalls (g a) (f a) s.aReg ++ es ++ es', ?_, ?_⟩
    · rw [ht]
      simp [State.afterProbe]
    · rw [List.range'_succ, List.flatMap_cons, probeEvents_eq, List.map_append, List.map_append, hes.plain, hes', ha]
      rfl
  releases := h.releases
  frame := by
    have hend : a + 1 + k = a + (k + 1) := Nat.succ_add_eq_add_succ a k
    refine h.frame.trans ?_
    rw [hend]
    rfl

/-- A sweep from address `a` on whose waits are done and whose starts are accepted makes every probe (R190). -/
theorem swept_exists {g : Nat → Byte} (f : Nat → Byte) (hg : ∀ a, startAccepted (g a) = true) {ws : List WaitAnswer}
    {ss : List Byte} (k a : Nat) (s : State) (ha : s.aReg = BitVec.ofNat 8 a) (hk : a + k = Config.scanCount)
    (hw : s.env.waits = List.replicate (2 * k) .done ++ ws)
    (hs : s.env.statuses = (List.range' a k).flatMap (fun b => [g b, f b]) ++ ss) : ∃ t, Swept g f a k s t := by
  induction k generalizing a s with
  | zero => exact ⟨_, swept_nil ha hk⟩
  | succ k ih =>
    have hwaits : s.env.waits = .done :: .done :: (List.replicate (2 * k) .done ++ ws) := hw
    have hstatuses : s.env.statuses =
        g a :: f a :: ((List.range' (a + 1) k).flatMap (fun b => [g b, f b]) ++ ss) := hs
    obtain ⟨es, hes, hrun⟩ := probe_run (s := s.goto (scanMode .start)) rfl (hg a) hwaits hstatuses
    have hnext : s.aReg + 1 = BitVec.ofNat 8 (a + 1) := by rw [ha]; exact (BitVec.ofNat_add a 1).symm
    obtain ⟨t, ht⟩ := ih (a + 1) { s.afterProbe (g a) (f a) _ _ es with aReg := s.aReg + 1 } hnext (by omega) rfl rfl
    exact ⟨t, .cons ha (by omega) hes hrun ht⟩

/-! ### The whole sweep (R118, R186, R196) -/

/-- The record of the send statuses does not change the bytes sent. -/
theorem filterMap_sent_plain (es : List Event) :
    (es.map Event.plain).filterMap Event.sent = es.filterMap Event.sent := by
  rw [List.filterMap_map]
  congr 1
  funext e
  cases e <;> rfl

/-- The bytes sent in a probe are its report (R189). -/
theorem probeEvents_sent (g f : Nat → Byte) (a : Nat) :
    (probeEvents g f a).filterMap Event.sent = probeReport (f a) (BitVec.ofNat 8 a) := by
  have htext (txt : List Byte) : (txt.map (Event.tx · .sent)).filterMap Event.sent = txt := by
    rw [List.filterMap_map]
    exact List.filterMap_some
  rw [probeEvents_eq, List.filterMap_append, htext]
  rfl

/-- The reports of a sweep are those of all its probes. -/
theorem sweepReports_eq (f : Nat → Byte) : sweepReports f = reportsFrom f 0 Config.scanCount := by
  rw [sweepReports, List.range_eq_range']
  rfl

/-- The bytes sent in a sweep are its reports (R189, R196). -/
theorem sweepEvents_sent (g f : Nat → Byte) : (sweepEvents g f).filterMap Event.sent = sweepReports f := by
  rw [sweepEvents, List.filterMap_append, List.filterMap_flatMap, sweepReports_eq, reportsFrom, List.range_eq_range']
  simp only [probeEvents_sent]
  exact List.append_nil _

/-- A run whose events are those of a sweep sends the sweep's reports. -/
theorem output_of_sweep {g f : Nat → Byte} {s t : State} {es : List Event} (ht : t.trace = s.trace ++ es)
    (hes : es.map Event.plain = sweepEvents g f) : t.output = s.output ++ sweepReports f := by
  rw [State.output, ht, List.filterMap_append, ← sweepEvents_sent g f, ← hes, filterMap_sent_plain]
  rfl

/-- Where the sweep stands before its first loop test (R115, R186). -/
def State.atSweep (s : State) : State := { s.markAdmin with err := 0, aReg := 0 }

/-- The state after the cleanup of a sweep whose release comes, the later release answers being `rl` (R192). -/
def State.afterCleanup (s : State) (rl : List WaitAnswer) : State :=
  { s with lasterr := s.lasterr ||| s.err, busHeld := false, mode := .lex .l1, draws := s.draws + 1,
           env := { s.env with releases := rl }, trace := s.trace ++ [.stop, .release .done] }

/-- `@` at the line goes to the loop test (R118, R186). -/
theorem execAScan_line {s : State} (hm : s.mode = .lex .l1) : execAScan s = .next (scanLoop s.atSweep) := by
  rw [execAScan, hm]; rfl

/-- A complete sweep and its cleanup change nothing but what R118 and R192 say: no error bit was set, so `LASTERR`
stays as it was. -/
theorem Swept.afterCleanup_frame {g f : Nat → Byte} {s u : State} {rl : List WaitAnswer} (hm : s.mode = .lex .l1)
    (h : Swept g f 0 Config.scanCount s.atSweep u) :
    u.afterCleanup rl =
      { s with admin := true, err := 0, aReg := BitVec.ofNat 8 Config.scanCount, sReg := u.sReg, busHeld := false,
               env := (u.afterCleanup rl).env, draws := u.draws + 1,
               trace := u.trace ++ [.stop, .release .done] } := by
  refine (congrArg (State.afterCleanup · rl) h.frame).trans ?_
  simp [State.afterCleanup, State.atSweep, State.markAdmin, hm]

/-- Settles O26: all the probes from address 0 on, then the cleanup. -/
theorem sweepReportsTheAcknowledgingAddresses : Obligations.SweepReportsTheAcknowledgingAddresses := by
  intro s g f ws rs ss hm hg hw hs hr
  have hpos : 0 < Config.scanCount := by have := scanCount_cases; omega
  rw [List.range_eq_range'] at hs
  obtain ⟨u, hu⟩ := swept_exists f (fun a => (startAccepted_iff _).2 (hg a)) Config.scanCount 0 s.atSweep rfl
    (Nat.zero_add _) hw hs
  have hmode : u.mode = .adminop (.scan .stop) := by rw [hu.frame]; rfl
  have hclean : Reaches 2 u (u.afterCleanup rs) := scanCleanup_run hmode (hu.releases.trans hr) rfl
  obtain ⟨es, htrace, hes⟩ := hu.events
  have hall : (u.afterCleanup rs).trace = s.trace ++ (es ++ [.stop, .release .done]) := by
    rw [← List.append_assoc]
    exact congrArg (· ++ [.stop, .release .done]) htrace
  have hevents : (es ++ [Event.stop, .release .done]).map Event.plain = sweepEvents g f := by
    rw [List.map_append, hes, sweepEvents, List.range_eq_range']
    rfl
  refine ⟨_, u.afterCleanup rs, execAScan_line hm, scanLoop_more rfl hpos, ?_, output_of_sweep hall hevents,
    ⟨_, hall, hevents⟩, hu.afterCleanup_frame hm⟩
  rw [sweepReports_eq]
  exact reaches_trans hu.reaches hclean

end Sys2Proof.Machine

/-! ## The wait in `Rx()`, the first step and the ignored bytes (40_lexer.md R92, R104; R251) -/

namespace Sys2Proof.Machine

/-! ### The wait in `Rx()` (R92, R261) -/

/-- Below the capacity and with no byte there, the block waits (R92). -/
theorem receive_waiting {s : State} (hl : s.tbLen ≠ Config.tbCap) (hi : s.input = []) : s.receive = .waiting s := by
  rw [State.receive, if_neg hl, hi]

/-- At `L1` a waiting step answers the same state (R92; log 3). -/
theorem step_waiting {s : State} (hm : s.mode = .lex .l1) (hl : s.tbLen ≠ Config.tbCap) (hi : s.input = []) :
    step s = .next s := by
  rw [step_lex1 hm, receive_waiting hl hi, Fetch.out]

/-- Settles O8: it is `step_waiting`. -/
theorem waitingForInputChangesNothing : Obligations.WaitingForInputChangesNothing :=
  fun _ => step_waiting

/-! ### The first step (R90, R251) -/

/-- A line start is below the capacity, so no step from `L0` overflows (R91, R103). -/
theorem startLine_tbLen_ne_cap (s : State) : s.startLine.tbLen ≠ Config.tbCap := by
  rw [startLine_tbLen]; decide

/-- At `L0` with no byte there the step is the line start alone (R90, R92). -/
theorem step_waiting_first {s : State} (hm : s.mode = .lex .l0) (hi : s.input = []) : step s = .next s.startLine := by
  rw [step_lex0 hm, receive_waiting (startLine_tbLen_ne_cap s) hi, Fetch.out]

/-- Settles O12: with a byte there by `step_receive_first`; with none the line start, whose next step waits. -/
theorem firstStepReceivesTheFirstByte : Obligations.FirstStepReceivesTheFirstByte := by
  refine ⟨fun b rest => ?_, ?_⟩
  · exact ⟨({ State.reset with input := b :: rest } : State).startLine.rx b rest, rfl, startLine_tbLen _, rfl, rfl,
      rfl, rfl, rfl, step_receive_first rfl rfl⟩
  · have hwait : step State.reset.startLine = .next State.reset.startLine :=
      step_waiting rfl (startLine_tbLen_ne_cap _) rfl
    exact ⟨State.reset.startLine, step_waiting_first rfl rfl, rfl, rfl, hwait⟩

/-! ### Ignored bytes (R104) -/

/-- Settles O17: such a byte is of the ignored class. -/
theorem ignoredBytesHaveNoEffect : Obligations.IgnoredBytesHaveNoEffect :=
  fun _ => exec_ignore rfl

end Sys2Proof.Machine

/-! ## The checked executor: its tokens, its waits and its cleanup (42_exec_checked.md) -/

namespace Sys2Proof.Machine

/-! ### The step of a token, by its kind (R142) -/

theorem step_checked_of_start {s : State} {p : CheckedAt} (hm : s.mode = .execChecked p) (hp : p.inToken = true)
    (hs : StartInv s) :
    step s = checkedStart ((s.tReg - BitVec.ofNat _ Config.startBase).setWidth 8) p s := by
  rw [step_checked_token hm hp, if_neg hs.not_lt]

theorem step_checked_of_read {s : State} {p : CheckedAt} (hm : s.mode = .execChecked p) (hp : p.inToken = true)
    (ht : s.tReg.toNat < Config.startBase) (hr : s.rp = true) : step s = checkedRead s.tReg p s := by
  rw [step_checked_token hm hp, if_pos ht, if_pos hr]

theorem step_checked_of_write {s : State} {p : CheckedAt} (hm : s.mode = .execChecked p) (hp : p.inToken = true)
    (h : WriteInv s) : step s = checkedWrite s.tReg p s := by
  obtain ⟨ht, hr⟩ := h
  rw [step_checked_token hm hp, if_pos ht, if_neg (by simp [hr])]

theorem exec_readCount_checked {s : State} {p : CheckedAt} {n : Word} (hm : s.mode = .execChecked p) :
    exec (.readCount n) s = checkedRead n p s := by
  rw [exec, execReadCount, hm]

theorem exec_dataWrite_checked {s : State} {p : CheckedAt} {v : Word} (hm : s.mode = .execChecked p) :
    exec (.dataWrite v) s = checkedWrite v p s := by
  rw [exec, execDataWrite, hm]

/-- A word decodes to a byte to write only outside a read phase, and is that word itself (R73). -/
theorem writeInv_of_decodeWord {s : State} {v : Word} (h : decodeWord s.rp s.tReg = .dataWrite v) :
    WriteInv s ∧ s.tReg = v := by
  by_cases ht : s.tReg.toNat < Config.startBase
  · rw [decodeWord_data ht] at h
    cases hr : s.rp with
    | true => rw [hr] at h; cases h
    | false => rw [hr] at h; cases h; exact ⟨⟨ht, hr⟩, rfl⟩
  · obtain ⟨hi, a, ⟨hd, -⟩ | ⟨hd, -⟩⟩ := decodeWord_start (rp := s.rp) ht
    · rw [hd] at h; cases h
    · rw [hd] at h; cases h

/-! ### Where a walk outside a read phase goes on (R141) -/

/-- Outside a read phase no count is tested: the walk stands before the next token, or at its cleanup. -/
theorem CheckedGoesOn.atNextToken {s t : State} (h : CheckedGoesOn s t) (hgo : WalkGoesOn s) (hr : s.rp = false) :
    AtNextToken (.execChecked .token) (.execChecked .stop) s t ∧
      t = { s with iReg := t.iReg, tReg := t.tReg, mode := t.mode } := by
  obtain ⟨hle, hcap, htok⟩ := hgo
  obtain ⟨hend, hnext⟩ := h
  have hi : (s.iReg + 1).toNat = s.iReg.toNat + 1 := iReg_succ_toNat (by omega) hcap.le
  rcases hle.eq_or_lt with he | hlt
  · obtain rfl := hend he
    exact ⟨⟨hi, fun _ => ⟨rfl, rfl⟩, fun hlt => absurd he hlt.ne⟩, rfl⟩
  · obtain ⟨w, hw⟩ := htok hlt
    obtain ⟨hstand, -, -⟩ := hnext w hlt hw
    obtain rfl := hstand (.inl hr)
    exact ⟨⟨hi, fun he => absurd he hlt.ne, fun _ => ⟨rfl, hw⟩⟩, rfl⟩

/-! ### A byte to write (R152) -/

theorem checkedWrite_token (v : Word) (s : State) :
    checkedWrite v .token s =
      .next { s with trace := s.trace ++ [.write (v.setWidth 8)], mode := .execChecked .writeWait } := rfl

/-- The done wait of a written byte: no status is read, and the walk goes on (R152). -/
theorem step_checked_writeWait {s : State} {ws : List WaitAnswer} (hm : s.mode = .execChecked .writeWait)
    (hi : WriteInv s) (h : s.env.waits = .done :: ws) :
    step s = checkedAdvance { s with env := { s.env with waits := ws }, draws := s.draws + 1,
                                     trace := s.trace ++ [.wait .done] } := by
  rw [step_checked_of_write hm rfl hi, checkedWrite, checkedWait_done h]

/-- Settles O36: the write, then its wait, whose step goes on outside a read phase. -/
theorem checkedDataTokenWritesItsLowByte : Obligations.CheckedDataTokenWritesItsLowByte := by
  intro s v ws hm hd hgo hw
  obtain ⟨⟨hl, hrp⟩, -⟩ := writeInv_of_decodeWord hd
  obtain ⟨t, ht, hnext⟩ := checkedAdvance_goesOn (s :=
    { s with draws := s.draws + 1, env := { s.env with waits := ws }, mode := .execChecked .writeWait,
             trace := s.trace ++ [.write (v.setWidth 8), .wait .done] }) hgo
  obtain ⟨hat, hframe⟩ := hnext.atNextToken hgo hrp
  refine ⟨_, t, (exec_dataWrite_checked hm).trans (checkedWrite_token v s), rfl, ?_, hat, hframe⟩
  refine reaches_succ (Eq.trans (step_checked_writeWait rfl ⟨hl, hrp⟩ hw) ?_) (reaches_zero t)
  rw [← ht]
  simp

/-! ### The count test and a read byte's status (R148 to R150) -/

/-- An accepted address status in the checked executor sets the read phase, and the walk goes on (R147). -/
theorem checkedStart_addressed {s : State} {ab y : Byte} {ss : List Byte} (h : s.env.statuses = y :: ss)
    (hy : addrAccepted s.abReg y = true) :
    checkedStart ab .addrStatus s =
      checkedAdvance { s with sReg := y, rp := decide (y = 0x40), env := { s.env with statuses := ss },
                              draws := s.draws + 1, trace := s.trace ++ [.status y] } := by
  rw [checkedStart, statusAnswer_eq h, if_pos hy, afterStatus_eq h, readPhase_eq]

/-- The count test (R148). -/
theorem checkedCount_eq (n : Word) (s : State) :
    checkedCount n s =
      .next (if n = 0 then { s with nReg := n, err := s.err ||| errMask .nbr, mode := .execChecked .stop }
        else { s with nReg := n, kReg := 1, mode := .execChecked .readCall }) := by
  rw [checkedCount]
  split <;> rfl

/-- In a read phase a walk advances to a count by its count test (R141, R148). -/
theorem checkedAdvance_count {s : State} {w : Word} (hcap : s.tbLen ≤ Config.tbCap)
    (hlt : s.iReg.toNat + 1 < s.tbLen) (hw : readSlot s.tb (s.iReg.toNat + 1) = some w) (hr : s.rp = true)
    (hl : w.toNat < Config.startBase) :
    checkedAdvance s = checkedCount w { s with iReg := s.iReg + 1, tReg := w } :=
  (walkAdvance_live hcap hlt hw).trans (enterToken_count hr hl)

/-- Settles O33: the accepted status begins a read phase, and the next token is a count. -/
theorem checkedZeroCountFlagsNoBytes : Obligations.CheckedZeroCountFlagsNoBytes := by
  intro s hi a n ss hm hab hlt hcap hn hl hs
  have hy : addrAccepted s.abReg 0x40 = true := hab ▸ (addrAccepted_iff a true 0x40).2 (.inr ⟨rfl, rfl⟩)
  refine ⟨_, rfl, ((exec_startInstr_checked (d := true) hm).trans (checkedStart_addressed hs hy)).trans ?_⟩
  exact Eq.trans (checkedAdvance_count hcap.le hlt hn rfl hl) (checkedCount_eq n _)

theorem lastByte_of_lt {s : State} (h : s.kReg.toNat < s.nReg.toNat) : s.lastByte = false := by
  simp [State.lastByte, h]

theorem lastByte_of_eq {s : State} (h : s.kReg.toNat = s.nReg.toNat) : s.lastByte = true := by
  simp [State.lastByte, h]

/-- A read byte's status that is not the expected one aborts (R149, R150). -/
theorem checkedRead_bad {s : State} {n : Word} {x : Byte} {ss : List Byte} (h : s.env.statuses = x :: ss)
    (hx : x ≠ readExpected s.lastByte) :
    checkedRead n .readStatus s =
      .next { s with sReg := x, err := s.err ||| errMask (readFailure s.lastByte), draws := s.draws + 1,
                     mode := .execChecked .stop, trace := s.trace ++ [.status x],
                     env := { s.env with statuses := ss } } := by
  rw [checkedRead, statusAnswer_eq h, if_neg hx, afterStatus_eq h]
  rfl

/-- Settles O35: before the last byte 0x50 is expected and DRA flagged, on the last 0x58 and DRN. -/
theorem checkedReadFailureFlagsItsKind : Obligations.CheckedReadFailureFlagsItsKind := by
  intro s n x ss hm hinv htn hs
  obtain ⟨-, -, hnt, -, -⟩ := hinv
  have hn : s.nReg = n := hnt.trans htn
  have hexec := exec_readCount_checked (n := n) hm
  refine ⟨fun hk hx => ?_, fun hk hx => ?_⟩
  · have hlast : s.lastByte = false := lastByte_of_lt (hn ▸ hk)
    have hbad := checkedRead_bad (n := n) hs (by rw [hlast]; exact hx)
    rw [hexec, hbad, hlast, readFailure, if_neg Bool.false_ne_true]
  · have hlast : s.lastByte = true := lastByte_of_eq (hn ▸ hk)
    have hbad := checkedRead_bad (n := n) hs (by rw [hlast]; exact hx)
    rw [hexec, hbad, hlast, readFailure, if_pos rfl]

/-! ### The cleanup (R156, R160) -/

theorem step_checked_stop {s : State} (hm : s.mode = .execChecked .stop) :
    step s = .next { s with busHeld := false, trace := s.trace ++ [.stop], mode := .execChecked .release } := by
  rw [step_checked_end hm rfl, exec, execEol, hm]
  rfl

theorem step_checked_release {s : State} (hm : s.mode = .execChecked .release) : step s = checkedRelease s := by
  rw [step_checked_end hm rfl, exec, execEol, hm]

/-- The release comes: the result goes to `LASTERR` and the next line starts (R160, R91). -/
theorem step_checked_released {s : State} {rl : List WaitAnswer} (hm : s.mode = .execChecked .release)
    (h : s.env.releases = .done :: rl) :
    step s = .next { s with lasterr := s.lasterr ||| s.err, acc := 0, admin := false, tb := writeSlot s.tb 0 1,
                            env := { s.env with releases := rl }, draws := s.draws + 1,
                            trace := s.trace ++ [.release .done], mode := .lex .l1 } := by
  rw [step_checked_release hm, checkedRelease, releaseAnswer_eq h, afterRelease_eq h]
  rfl

theorem step_checked_held {s : State} {rl : List WaitAnswer} (hm : s.mode = .execChecked .release)
    (h : s.env.releases = .timeout :: rl) :
    step s = .next { s with env := { s.env with releases := rl }, draws := s.draws + 1,
                            trace := s.trace ++ [.release .timeout], mode := .execChecked .releaseReset } := by
  rw [step_checked_release hm, checkedRelease, releaseAnswer_eq h, afterRelease_eq h]
  rfl

/-- The bus reset of an expired release, and the walk's return (R156, R160). -/
theorem step_checked_releaseReset {s : State} {rs : List ResetAnswer} (hm : s.mode = .execChecked .releaseReset)
    (h : s.env.resets = .ok :: rs) :
    step s = .next { s with err := s.err ||| errMask .bro, lasterr := s.lasterr ||| (s.err ||| errMask .bro),
                            acc := 0, admin := false, tb := writeSlot s.tb 0 1, env := { s.env with resets := rs },
                            draws := s.draws + 1, trace := s.trace ++ [.reset .ok], mode := .lex .l1 } := by
  rw [step_checked_end hm rfl, exec, execEol, hm]
  refine (busReset_ok h).trans ?_
  rw [afterReset_eq h]
  rfl

/-- Settles O38: the stop, the release wait, and where that expires the bus reset. -/
theorem checkedCleanupStopsReleasesAndRecords : Obligations.CheckedCleanupStopsReleasesAndRecords := by
  refine fun s rl hm => ⟨fun hl => ?_, fun rs hl hr => ?_⟩
  · refine reaches_succ (step_checked_stop hm) (reaches_succ (step_checked_released rfl hl) (reaches_of_eq ?_))
    simp
  · refine reaches_succ (step_checked_stop hm) (reaches_succ (step_checked_held rfl hl) ?_)
    refine reaches_succ (step_checked_releaseReset rfl hr) (reaches_of_eq ?_)
    simp

/-! ### An expired wait (R153) -/

theorem checkedWait_timeout {ok : State → Out} {s : State} {ws : List WaitAnswer}
    (h : s.env.waits = .timeout :: ws) :
    checkedWait ok s = .next { s with env := { s.env with waits := ws }, draws := s.draws + 1,
                                      trace := s.trace ++ [.wait .timeout], mode := .execChecked .timeout } := by
  rw [checkedWait, waitAnswer_eq h, afterWait_eq h]
  rfl

/-- A step at any of a walk's four waits is a `checkedWait` (R143, R144, R149, R152). -/
theorem step_checked_wait {s : State} {p : CheckedAt}
    (hp : p ∈ ([.startWait, .addrWait, .readWait, .writeWait] : List CheckedAt)) (hm : s.mode = .execChecked p)
    (hi : p.inv s) : ∃ ok, step s = checkedWait ok s := by
  simp only [List.mem_cons, List.not_mem_nil, or_false] at hp
  rcases hp with rfl | rfl | rfl | rfl
  · obtain ⟨-, hs⟩ := hi
    rw [step_checked_of_start hm rfl hs, checkedStart]
    exact ⟨_, rfl⟩
  · obtain ⟨-, hs, -⟩ := hi
    rw [step_checked_of_start hm rfl hs, checkedStart]
    exact ⟨_, rfl⟩
  · obtain ⟨-, ht, hr, -⟩ := hi
    rw [step_checked_of_read hm rfl ht hr, checkedRead]
    exact ⟨_, rfl⟩
  · obtain ⟨-, hw⟩ := hi
    rw [step_checked_of_write hm rfl hw, checkedWrite]
    exact ⟨_, rfl⟩

/-- The bus reset of an expired wait (R153). -/
theorem step_checked_reset {s : State} {rs : List ResetAnswer} (hm : s.mode = .execChecked .timeout)
    (h : s.env.resets = .ok :: rs) :
    step s = .next { s with err := s.err ||| errMask .bro, env := { s.env with resets := rs },
                            draws := s.draws + 1, trace := s.trace ++ [.reset .ok],
                            mode := .execChecked .stop } := by
  rw [step_checked_end hm rfl, exec, execEol, hm]
  refine (busReset_ok h).trans ?_
  rw [afterReset_eq h]
  rfl

/-- Settles O37: the expired wait, its bus reset, then the cleanup of O38. -/
theorem checkedTimeoutResetsOnceAndEndsTheWalk : Obligations.CheckedTimeoutResetsOnceAndEndsTheWalk := by
  intro s p ws rl rs hp hm hi hw hr hl
  obtain ⟨ok, hwait⟩ := step_checked_wait hp hm hi
  refine reaches_succ (hwait.trans (checkedWait_timeout hw)) (reaches_succ (step_checked_reset rfl hr) ?_)
  refine reaches_succ (step_checked_stop rfl) (reaches_succ (step_checked_released rfl hl) (reaches_of_eq ?_))
  simp

end Sys2Proof.Machine

/-! ## The read loop of the checked executor (R148 to R151) -/

namespace Sys2Proof.Machine

/-! ### The calls of one byte (R149, R150) -/

section ReadByte

variable {s : State}

/-- ACK before the last byte, NACK on it (R149, R150). -/
theorem checkedRead_call (n : Word) (s : State) :
    checkedRead n .readCall s =
      .next { s with trace := s.trace ++ [if s.lastByte then .nack else .ack], mode := .execChecked .readWait } := by
  rw [checkedRead]
  split <;> rfl

theorem step_checked_readCall (hm : s.mode = .execChecked .readCall) (ht : s.tReg.toNat < Config.startBase)
    (hr : s.rp = true) :
    step s =
      .next { s with trace := s.trace ++ [if s.lastByte then .nack else .ack], mode := .execChecked .readWait } :=
  (step_checked_of_read hm rfl ht hr).trans (checkedRead_call _ s)

theorem step_checked_readWait {ws : List WaitAnswer} (hm : s.mode = .execChecked .readWait)
    (ht : s.tReg.toNat < Config.startBase) (hr : s.rp = true) (h : s.env.waits = .done :: ws) :
    step s = .next { s with env := { s.env with waits := ws }, draws := s.draws + 1,
                            trace := s.trace ++ [.wait .done], mode := .execChecked .readStatus } := by
  rw [step_checked_of_read hm rfl ht hr, checkedRead, checkedWait_done h]
  rfl

/-- The expected status of a read byte (R149, R150). -/
theorem step_checked_readStatus {ss : List Byte} (hm : s.mode = .execChecked .readStatus)
    (ht : s.tReg.toNat < Config.startBase) (hr : s.rp = true)
    (h : s.env.statuses = readExpected s.lastByte :: ss) :
    step s = .next { s with sReg := readExpected s.lastByte, env := { s.env with statuses := ss },
                            draws := s.draws + 1, trace := s.trace ++ [.status (readExpected s.lastByte)],
                            mode := .execChecked .readData } := by
  rw [step_checked_of_read hm rfl ht hr, checkedRead, statusAnswer_eq h, if_pos rfl, afterStatus_eq h]
  rfl

theorem dataAnswer_eq {d : Byte} {dd : List Byte} (h : s.env.datas = d :: dd) : s.dataAnswer = d := by
  rw [State.dataAnswer, h]; rfl

theorem afterRead_eq {d : Byte} {dd : List Byte} (h : s.env.datas = d :: dd) :
    s.afterRead = { s with dbReg := d, env := { s.env with datas := dd }, draws := s.draws + 1,
                           trace := s.trace ++ [.read d] } := by
  simp only [State.afterRead, dataAnswer_eq h, h, List.tail_cons]

theorem step_checked_readData {d : Byte} {dd : List Byte} (hm : s.mode = .execChecked .readData)
    (ht : s.tReg.toNat < Config.startBase) (hr : s.rp = true) (h : s.env.datas = d :: dd) :
    step s = .next { s with dbReg := d, env := { s.env with datas := dd }, draws := s.draws + 1,
                            trace := s.trace ++ [.read d],
                            mode := .execChecked (.readReport (readOutput s.lastByte d)) } := by
  rw [step_checked_of_read hm rfl ht hr, checkedRead, dataAnswer_eq h, afterRead_eq h]
  rfl

/-- What follows the report of a byte: the next byte, or after the last one the end of the read phase and the walk's
advance (R149 to R151). -/
def checkedReported (s : State) : Out :=
  if s.lastByte then checkedAdvance { s with rp := false }
  else .next { s with kReg := s.kReg + 1, mode := .execChecked .readCall }

/-- It leaves the report's sub-state behind. -/
theorem checkedReported_goto (s : State) (m : Mode) : checkedReported (s.goto m) = checkedReported s := rfl

theorem checkedReported_last (h : s.lastByte = true) : checkedReported s = checkedAdvance { s with rp := false } :=
  if_pos h

theorem checkedReported_more (h : s.lastByte = false) :
    checkedReported s = .next { s with kReg := s.kReg + 1, mode := .execChecked .readCall } :=
  if_neg (by simp [h])

theorem step_checked_readReport {r : List Byte} (hm : s.mode = .execChecked (.readReport r))
    (ht : s.tReg.toNat < Config.startBase) (hr : s.rp = true) :
    step s = sendText (fun r => .execChecked (.readReport r)) r checkedReported s :=
  step_checked_of_read hm rfl ht hr

end ReadByte

/-- The report of a read byte takes one step a character, and then comes what follows it (R165, R203). -/
theorem readReport_run {t : State} {txt : List Byte} (hn : txt ≠ []) (s : State)
    (hm : s.mode = .execChecked (.readReport txt)) (ht : s.tReg.toNat < Config.startBase) (hr : s.rp = true)
    (hdone : checkedReported (s.afterText txt) = .next t) : Reaches txt.length s t := by
  induction txt generalizing s with
  | nil => exact absurd rfl hn
  | cons b r ih =>
    cases r with
    | nil => exact reaches_succ ((step_checked_readReport hm ht hr).trans hdone) (reaches_zero t)
    | cons c r =>
      have hstep : step s = .next ((s.tx b).goto (.execChecked (.readReport (c :: r)))) :=
        step_checked_readReport hm ht hr
      refine reaches_succ hstep (ih (List.cons_ne_nil c r) _ rfl ht hr ?_)
      rw [afterText_goto]
      exact (checkedReported_goto _ _).trans hdone

/-- The four calls of a read byte, its status the expected one (R149, R150). -/
def byteCalls (last : Bool) (d : Byte) : List Event :=
  [if last then .nack else .ack, .wait .done, .status (readExpected last), .read d]

/-- The calls of a byte and its report are the events of R149 and R150. -/
theorem byteEvents_eq {last : Bool} {d : Byte} {es : List Event} (h : SendEvents (readOutput last d) es) :
    (byteCalls last d ++ es).map Event.plain = byteEvents true last d := by
  rw [List.map_append, h.plain]
  cases last <;> rfl

/-- The state once the byte `d` has been read and its report is next, `ws`, `ss` and `dd` being the answers that are
left. -/
def State.atReport (s : State) (d : Byte) (ws : List WaitAnswer) (ss dd : List Byte) : State :=
  { s with sReg := readExpected s.lastByte, dbReg := d, env := { s.env with waits := ws, statuses := ss, datas := dd },
           draws := s.draws + 3, trace := s.trace ++ byteCalls s.lastByte d,
           mode := .execChecked (.readReport (readOutput s.lastByte d)) }

/-- The state once the byte `d` has been read and reported, `ws`, `ss` and `dd` being the answers that are left. -/
def State.afterByte (s : State) (d : Byte) (ws : List WaitAnswer) (ss dd : List Byte) (es : List Event) : State :=
  { s with sReg := readExpected s.lastByte, dbReg := d,
           env := { s.env with waits := ws, statuses := ss, datas := dd,
                               sends := s.env.sends.drop (readOutput s.lastByte d).length },
           draws := s.draws + 3 + (readOutput s.lastByte d).length,
           trace := s.trace ++ byteCalls s.lastByte d ++ es }

/-- The run of one byte of the read loop: four calls, its report, and what follows that. -/
theorem readByte_run {s : State} {d : Byte} {ws : List WaitAnswer} {ss dd : List Byte}
    (hm : s.mode = .execChecked .readCall) (ht : s.tReg.toNat < Config.startBase) (hr : s.rp = true)
    (hw : s.env.waits = .done :: ws) (hs : s.env.statuses = readExpected s.lastByte :: ss)
    (hd : s.env.datas = d :: dd) :
    ∃ es, SendEvents (readOutput s.lastByte d) es ∧
      ∀ t, checkedReported (s.afterByte d ws ss dd es) = .next t →
        Reaches (4 + (readOutput s.lastByte d).length) s t := by
  obtain ⟨es, hes, he⟩ := State.afterText_eq (s.atReport d ws ss dd) (readOutput s.lastByte d)
  refine ⟨es, hes, fun t hdone => reaches_trans (u := s.atReport d ws ss dd) ?_ ?_⟩
  · refine reaches_succ (step_checked_readCall hm ht hr) (reaches_succ (step_checked_readWait rfl ht hr hw) ?_)
    refine reaches_succ (step_checked_readStatus rfl ht hr hs) ?_
    refine reaches_succ (step_checked_readData rfl ht hr hd) (reaches_of_eq ?_)
    simp [State.atReport, byteCalls, State.lastByte]
  · refine readReport_run (readOutput_ne_nil _ _) _ rfl ht hr ?_
    rw [he]
    exact (checkedReported_goto (s.afterByte d ws ss dd es) _).trans hdone

/-! ### The bytes of a count, from one on (R148 to R151) -/

theorem readOutput_length (last : Bool) (d : Byte) : (readOutput last d).length = if last then 4 else 3 := by
  cases last <;> rfl

/-- `u` is where the read loop of `s` has reported its remaining bytes `ds` and ended the read phase: the walk's advance
from `u` is where the loop leads, and nothing but the loop's own registers, the environment and the record of the calls
has changed. -/
structure BytesRead (ds : List Byte) (s u : State) : Prop where
  reaches : ∀ t, checkedAdvance u = .next t → Reaches (7 * ds.length + 1) s t
  events : ∃ es, u.trace = s.trace ++ es ∧ es.map Event.plain = readEvents true ds
  frame : u = { s with kReg := s.nReg, sReg := 0x58, dbReg := u.dbReg, rp := false, mode := u.mode, draws := u.draws,
                       env := u.env, trace := u.trace }

section BytesRead

variable {s u : State} {d e : Byte} {ds : List Byte} {ws : List WaitAnswer} {ss dd : List Byte} {es : List Event}

/-- The last byte of a count. -/
theorem BytesRead.last (hlast : s.lastByte = true) (hk : s.kReg = s.nReg)
    (hes : SendEvents (readOutput s.lastByte d) es)
    (hrun : ∀ t, checkedReported (s.afterByte d ws ss dd es) = .next t →
      Reaches (4 + (readOutput s.lastByte d).length) s t) :
    BytesRead [d] s { s.afterByte d ws ss dd es with rp := false } where
  reaches := by
    intro t ht
    rw [readOutput_length, hlast] at hrun
    exact hrun t (Eq.trans (checkedReported_last hlast) ht)
  events := by
    rw [hlast] at hes
    refine ⟨byteCalls true d ++ es, ?_, byteEvents_eq hes⟩
    rw [← hlast, ← List.append_assoc]
    rfl
  frame := by simp [State.afterByte, hlast, hk, readExpected, Config.stDrNack]

/-- A byte before those that follow it. -/
theorem BytesRead.cons (hlast : s.lastByte = false) (hes : SendEvents (readOutput s.lastByte d) es)
    (hrun : ∀ t, checkedReported (s.afterByte d ws ss dd es) = .next t →
      Reaches (4 + (readOutput s.lastByte d).length) s t)
    (h : BytesRead (e :: ds) { s.afterByte d ws ss dd es with kReg := s.kReg + 1, mode := .execChecked .readCall } u) :
    BytesRead (d :: e :: ds) s u where
  reaches := by
    intro t ht
    rw [readOutput_length, hlast] at hrun
    have hbyte := hrun _ (checkedReported_more hlast)
    have hsteps : 7 * (d :: e :: ds).length + 1 = 7 + (7 * (e :: ds).length + 1) := by
      rw [List.length_cons]; omega
    rw [hsteps]
    exact reaches_trans hbyte (h.reaches t ht)
  events := by
    obtain ⟨es', hu, hes'⟩ := h.events
    rw [hlast] at hes
    refine ⟨byteCalls false d ++ es ++ es', ?_, ?_⟩
    · rw [hu, ← hlast]
      simp [State.afterByte]
    · rw [List.map_append, byteEvents_eq hes, hes']
      rfl
  frame := h.frame

end BytesRead

/-- From the byte at `k` on, a count whose waits are done and whose statuses are the expected ones is read to its end
(R149 to R151). -/
theorem bytesRead_exists {ws : List WaitAnswer} {ss dd : List Byte} (ds : List Byte) (hne : ds ≠ []) (s : State)
    (hm : s.mode = .execChecked .readCall) (hi : ReadInv s) (hk : s.kReg.toNat + ds.length = s.nReg.toNat + 1)
    (hw : s.env.waits = List.replicate ds.length .done ++ ws)
    (hs : s.env.statuses = List.replicate (ds.length - 1) 0x50 ++ 0x58 :: ss) (hd : s.env.datas = ds ++ dd) :
    ∃ u, BytesRead ds s u := by
  obtain ⟨ht, hr, -, -, -⟩ := id hi
  induction ds generalizing s with
  | nil => exact absurd rfl hne
  | cons d ds ih =>
    cases ds with
    | nil =>
      have heq : s.kReg = s.nReg := BitVec.eq_of_toNat_eq (Nat.succ.inj hk)
      have hlast : s.lastByte = true := lastByte_of_eq (congrArg BitVec.toNat heq)
      have hs : s.env.statuses = readExpected s.lastByte :: ss := by rw [hlast]; exact hs
      obtain ⟨es, hes, hrun⟩ := readByte_run hm ht hr hw hs hd
      exact ⟨_, .last hlast heq hes hrun⟩
    | cons e ds =>
      have hlt : s.kReg.toNat < s.nReg.toNat := by rw [List.length_cons, List.length_cons] at hk; omega
      have hlast : s.lastByte = false := lastByte_of_lt hlt
      have hs : s.env.statuses = readExpected s.lastByte :: (List.replicate ds.length 0x50 ++ 0x58 :: ss) := by
        rw [hlast]; exact hs
      obtain ⟨es, hes, hrun⟩ := readByte_run hm ht hr hw hs hd
      have hnext : (s.kReg + 1).toNat = s.kReg.toNat + 1 := by
        have hone : (1 : Word).toNat = 1 := rfl
        rw [BitVec.toNat_add, hone]
        omega
      have hk' : (s.kReg + 1).toNat + (e :: ds).length = s.nReg.toNat + 1 := by
        rw [List.length_cons] at hk; omega
      obtain ⟨u, hu⟩ := ih (List.cons_ne_nil e ds)
        { s.afterByte d _ _ _ es with kReg := s.kReg + 1, mode := .execChecked .readCall } rfl
        (hi.next hlast rfl rfl rfl rfl) hk' rfl rfl rfl ht hr
      exact ⟨u, .cons hlast hes hrun hu⟩

/-! ### The whole count -/

/-- The bytes sent for one byte read are its output (R149, R150). -/
theorem byteEvents_sent (checked last : Bool) (d : Byte) :
    (byteEvents checked last d).filterMap Event.sent = readOutput last d := by
  cases checked <;> cases last <;> rfl

/-- The bytes sent for a count are the reports of its bytes and LF (R149 to R151). -/
theorem readEvents_sent (checked : Bool) {ds : List Byte} (hne : ds ≠ []) :
    (readEvents checked ds).filterMap Event.sent = ds.flatMap hexReport ++ [Config.lf] := by
  induction ds with
  | nil => exact absurd rfl hne
  | cons d ds ih =>
    cases ds with
    | nil => exact (byteEvents_sent checked true d).trans (by simp [readOutput])
    | cons e ds =>
      rw [readEvents, List.filterMap_append, byteEvents_sent, ih (List.cons_ne_nil e ds)]
      simp [readOutput]

/-- The first call of a count is ACK, or NACK where it is 1 (R149, R150). -/
theorem lastByte_first {s : State} {n : Word} (hn : s.nReg = n) (hk : s.kReg = 1) (h1 : 1 ≤ n.toNat) :
    s.lastByte = decide (n = 1) := by
  have hone : (1 : Word).toNat = 1 := rfl
  rw [State.lastByte, hn, hk, hone]
  refine decide_eq_decide.2 ⟨fun h => BitVec.eq_of_toNat_eq (by omega), fun h => by rw [h]; decide⟩

/-- A run whose events are those of a count sends the reports of its bytes and LF. -/
theorem output_of_read {checked : Bool} {ds : List Byte} {s t : State} {es : List Event} (hne : ds ≠ [])
    (ht : t.trace = s.trace ++ es) (hes : es.map Event.plain = readEvents checked ds) :
    t.output = s.output ++ ds.flatMap hexReport ++ [Config.lf] := by
  rw [List.append_assoc, ← readEvents_sent checked hne, ← hes, filterMap_sent_plain, State.output, ht,
    List.filterMap_append]
  rfl

/-- Settles O34: the bytes by `bytesRead_exists`, then the advance of the walk, outside a read phase. -/
theorem checkedReadCountReportsEveryByte : Obligations.CheckedReadCountReportsEveryByte := by
  refine ⟨fun s n ds dd ss ws hm hi htn hk hgo hlen hw hs hd => ?_,
    fun s n hm => (exec_readCount_checked hm).trans (checkedCount_eq n s)⟩
  obtain ⟨hl, hr, hnt, h1, hkn⟩ := id hi
  obtain rfl : s.nReg = n := hnt.trans htn
  have hpos : 1 ≤ s.nReg.toNat := h1.trans hkn
  have hne : ds ≠ [] := List.ne_nil_of_length_pos (hlen ▸ hpos)
  have hkd : s.kReg.toNat + ds.length = s.nReg.toNat + 1 := by
    have hone : (1 : Word).toNat = 1 := rfl
    rw [hk, hone]; omega
  rw [← hlen] at hw hs
  obtain ⟨u, hu⟩ := bytesRead_exists ds hne s hm hi hkd hw hs hd
  have hgou : WalkGoesOn u := by rw [hu.frame]; exact hgo
  obtain ⟨db, m, dr, ev, tr, rfl⟩ : ∃ db m dr ev tr, u =
      { s with kReg := s.nReg, sReg := 0x58, dbReg := db, rp := false, mode := m, draws := dr, env := ev,
               trace := tr } := ⟨_, _, _, _, _, hu.frame⟩
  obtain ⟨t, ht, hnext⟩ := checkedAdvance_goesOn hgou
  obtain ⟨hat, htf⟩ := hnext.atNextToken hgou rfl
  obtain ⟨i, w, m', rfl⟩ : ∃ i w m', t =
      { s with kReg := s.nReg, sReg := 0x58, dbReg := db, rp := false, iReg := i, tReg := w, mode := m', draws := dr,
               env := ev, trace := tr } := ⟨_, _, _, htf⟩
  obtain ⟨t1, hstep, hrun⟩ := reaches_succ_inv (hu.reaches _ ht)
  obtain ⟨es, htrace, hes⟩ := hu.events
  have hlast := lastByte_first rfl hk hpos
  have hfirst := (step_checked_readCall hm hl hr).symm.trans hstep
  have hcall := checkedRead_call s.nReg s
  cases hfirst
  rw [hlast] at hcall hrun
  refine ⟨_, _, (exec_readCount_checked hm).trans hcall, ?_, hlen ▸ hrun, hat, output_of_read hne htrace hes,
    ⟨es, htrace, hes⟩, rfl⟩
  simp

end Sys2Proof.Machine

/-! ## An error-free checked walk and its repetition by the Broadcast executor (R179)

A run of the checked executor in which no check fails is put as a list of clean steps, each with its call
(`CleanWalk`); the Broadcast executor mirrors these one by one, but for the status reads that it does not make. -/

namespace Sys2Proof.Machine

/-! ### No check has failed (R154, R155) -/

/-- An error bit other than BRO is set, which in a walk only an abort does (R154). -/
def CheckFailed (e : ErrMask) : Prop := ∃ k, k ≠ .bro ∧ e.getLsbD (Config.errBit k).val = true

/-- A set bit stays set. -/
theorem CheckFailed.or {e : ErrMask} (h : CheckFailed e) (m : ErrMask) : CheckFailed (e ||| m) := by
  obtain ⟨k, hk, hbit⟩ := h
  exact ⟨k, hk, by rw [BitVec.getLsbD_or, hbit, Bool.true_or]⟩

theorem checkFailed_flag (s : State) {k : ErrKind} (hk : k ≠ .bro) : CheckFailed (s.flag k).err :=
  ⟨k, hk, by rw [State.flag_err, BitVec.getLsbD_or, errMask_getLsbD, decide_eq_true rfl, Bool.or_true]⟩

theorem not_checkFailed {e : ErrMask} (h : e = 0 ∨ e = errMask .bro) : ¬ CheckFailed e := by
  rintro ⟨k, hk, hbit⟩
  rcases h with rfl | rfl
  · simp at hbit
  · rw [errMask_getLsbD, decide_eq_true_iff] at hbit
    exact hk (errBit_injective (Fin.ext hbit))

theorem readFailure_ne_bro (last : Bool) : readFailure last ≠ .bro := by
  cases last <;> decide

theorem CWalked.checkFailed {s t : State} (h : CWalked s t) (hs : CheckFailed s.err) : CheckFailed t.err := by
  cases h with
  | stop | token | count => exact hs
  | zero => exact hs.or _

/-- No step of a walk clears an error bit (R29). -/
theorem CheckedMove.checkFailed {s t : State} {p : CheckedAt} (h : CheckedMove s p t) (hs : CheckFailed s.err) :
    CheckFailed t.err := by
  cases h with
  | addressed _ hw | written _ hw => exact hw.checkFailed hs
  | readEnd hu _ hw => exact hw.checkFailed (by rw [hu.fields]; exact hs)
  | again hu => rw [hu.fields]; exact hs
  | refused | nacked | zero | bad | reset | releaseReset => exact hs.or _
  | _ => exact hs

/-! ### The steps of a walk and of the wait after it -/

/-- A bus reset of the checked executor has failed, or the block has halted (R224, R227). -/
def Lost (s : State) : Prop := s.mode = .execChecked .fatal ∨ ∃ k, s.mode = .halted k

/-- A step of the checked executor is one of its moves, or belongs to a failed bus reset (R227). -/
theorem step_checked_cases {s t : State} {p : CheckedAt} (hm : s.mode = .execChecked p) (h : step s = .next t) :
    CheckedMove s p t ∨ Lost t := by
  cases step_move h with
  | waiting hl => rcases hl.mode_eq with e | e <;> rw [hm] at e <;> cases e
  | received hr => rcases hr.atLine.mode_eq with e | e <;> rw [hm] at e <;> cases e
  | overflow e | newLine e | checkedWalk e | bcastWalk e | admin e | scan e | bcast e => rw [hm] at e; cases e
  | checked e hc => rw [hm] at e; cases e; exact .inl hc
  | resetFailed => exact .inr (.inl (by rw [State.goto_mode, hm]; rfl))
  | fatal => exact .inr (.inr ⟨_, rfl⟩)

/-- A step at `L1` waits, halts, or takes a byte (R92, R103). -/
theorem step_line_cases {s t : State} (hm : s.mode = .lex .l1) (h : step s = .next t) :
    t = s ∨ Lost t ∨ ∃ b, t.trace = s.trace ++ [.rx b] := by
  cases step_move h with
  | waiting hl =>
    cases hl with
    | l0 e => rw [hm] at e; cases e
    | l1 => exact .inl rfl
  | overflow => exact .inr (.inl (.inr ⟨_, rfl⟩))
  | @received _ b _ _ hr hl => exact .inr (.inr ⟨b, by rw [hl.position.2, hr.fields]⟩)
  | newLine e | checkedWalk e | bcastWalk e | admin e | scan e | checked e | bcast e => rw [hm] at e; cases e
  | resetFailed e | fatal e => rw [hm] at e; simp [resetModes, fatalModes, scanMode] at e

/-- After a failed reset no move is left, only the fatal entry (R227). -/
theorem CheckedMove.ne_fatal {s t : State} {p : CheckedAt} (h : CheckedMove s p t) : p ≠ .fatal := by
  rintro rfl
  cases h with
  | start hin | count hin | zero hin | write hin => cases hin
  | expired hmem => simp at hmem

/-- The block does not come back (R224, R227). -/
theorem Lost.step {s t : State} (hs : Lost s) (h : step s = .next t) : Lost t := by
  rcases hs with hm | ⟨k, hm⟩
  · exact (step_checked_cases hm h).resolve_left fun hc => hc.ne_fatal rfl
  · rw [step_halted hm] at h; cases h

theorem Lost.mode_ne_line {s : State} (hs : Lost s) : s.mode ≠ .lex .l1 := by
  rcases hs with hm | ⟨k, hm⟩ <;> rw [hm] <;> exact nofun

/-- A run adds to the trace. -/
theorem reaches_trace {n : Nat} {s t : State} (h : Reaches n s t) : s.trace <+: t.trace := by
  refine reaches_invariant (P := fun u => s.trace <+: u.trace) (fun u v hu hstep => hu.trans ?_) h (List.prefix_refl _)
  rcases (step_move hstep).trace with ht | ⟨e, ht⟩
  · rw [ht]
  · rw [ht]; exact List.prefix_append _ _

/-! ### The runs that R179 speaks of -/

/-- `n` steps lead from `c` to the line with the events `es`, of which none is an `Rx()` or an expired wait, and no check
has failed at the end. -/
structure ErrorFree (n : Nat) (c tc : State) (es : List Event) : Prop where
  reaches : Reaches n c tc
  mode : tc.mode = .lex .l1
  trace : tc.trace = c.trace ++ es
  noRx : ∀ b, Event.rx b ∉ es
  noTimeout : Event.wait .timeout ∉ es
  passed : ¬ CheckFailed tc.err

/-- The events of such a run are those of its first step and then those of the rest, which is such a run again. -/
theorem ErrorFree.next {n : Nat} {c tc : State} {es : List Event} (h : ErrorFree (n + 1) c tc es) :
    ∃ c' l es', step c = .next c' ∧ c'.trace = c.trace ++ l ∧ es = l ++ es' ∧ ErrorFree n c' tc es' := by
  obtain ⟨c', hstep, hrun⟩ := reaches_succ_inv h.reaches
  obtain ⟨l, hl⟩ := reaches_trace (reaches_succ hstep (reaches_zero c'))
  obtain ⟨es', hes'⟩ := reaches_trace hrun
  have hes : es = l ++ es' := by
    refine List.append_cancel_left (as := c.trace) ?_
    rw [← h.trace, ← hes', ← hl, List.append_assoc]
  subst hes
  exact ⟨c', l, es', hstep, hl.symm, rfl, hrun, h.mode, hes'.symm, fun b hb => h.noRx b (List.mem_append_right l hb),
    fun hb => h.noTimeout (List.mem_append_right l hb), h.passed⟩

/-- No bus reset fails on such a run: it comes to the line. -/
theorem ErrorFree.not_lost {n : Nat} {c tc : State} {es : List Event} (h : ErrorFree n c tc es) : ¬ Lost c :=
  fun hc => (reaches_invariant (fun _ _ => Lost.step) h.reaches hc).mode_ne_line h.mode

/-- At the line such a run is over (R92). -/
theorem ErrorFree.line {n : Nat} {c tc : State} {es : List Event} (h : ErrorFree n c tc es) (hm : c.mode = .lex .l1) :
    es = [] ∧ c = tc := by
  induction n generalizing es with
  | zero =>
    cases h.reaches
    exact ⟨List.self_eq_append_right.1 h.trace, rfl⟩
  | succ n ih =>
    obtain ⟨c', l, es', hstep, hl, rfl, h'⟩ := h.next
    rcases step_line_cases hm hstep with rfl | hlost | ⟨b, ht⟩
    · obtain rfl : l = [] := List.self_eq_append_right.1 hl
      exact ih h'
    · exact absurd hlost h'.not_lost
    · obtain rfl : l = [.rx b] := List.append_cancel_left (hl.symm.trans ht)
      exact absurd List.mem_cons_self (h.noRx b)

/-- In a walk its first step is a move of the executor. -/
theorem ErrorFree.next_checked {n : Nat} {c tc : State} {es : List Event} {p : CheckedAt}
    (h : ErrorFree (n + 1) c tc es) (hm : c.mode = .execChecked p) :
    ∃ c' l es', CheckedMove c p c' ∧ c'.trace = c.trace ++ l ∧ es = l ++ es' ∧ ErrorFree n c' tc es' := by
  obtain ⟨c', l, es', hstep, hl, hes, h'⟩ := h.next
  exact ⟨c', l, es', (step_checked_cases hm hstep).resolve_right h'.not_lost, hl, hes, h'⟩

/-- Along a walk of such a run no check has failed yet. -/
theorem ErrorFree.not_checkFailed {n : Nat} {c tc : State} {es : List Event} (h : ErrorFree n c tc es)
    (hm : (∃ p, c.mode = .execChecked p) ∨ c.mode = .lex .l1) : ¬ CheckFailed c.err := by
  induction n generalizing c es with
  | zero =>
    cases h.reaches
    exact h.passed
  | succ n ih =>
    rcases hm with ⟨p, hm⟩ | hm
    · obtain ⟨c', -, es', hc, -, -, h'⟩ := h.next_checked hm
      exact fun hfail => ih h' hc.mode (hc.checkFailed hfail)
    · obtain ⟨-, rfl⟩ := h.line hm
      exact h.passed

/-! ### The steps of an error-free walk, each with its call (R143 to R160) -/

/-- The steps of the checked executor whose wait is done and whose check is passed, with the call each makes. -/
inductive CleanStep (s : State) : CheckedAt → Event → State → Prop
  | start : StartInv s → CleanStep s .token .start (s.busStart.goto (.execChecked .startWait))
  | startDone : s.waitAnswer = .done →
      CleanStep s .startWait (.wait .done) (s.afterWait.goto (.execChecked .startStatus))
  | accepted : CleanStep s .startStatus (.status s.statusAnswer)
      ({ s.afterStatus with abReg := (s.tReg - BitVec.ofNat _ Config.startBase).setWidth 8 }.goto (.execChecked .addr))
  | addr : CleanStep s .addr (.write s.abReg) ((s.busWrite s.abReg).goto (.execChecked .addrWait))
  | addrDone : s.waitAnswer = .done →
      CleanStep s .addrWait (.wait .done) (s.afterWait.goto (.execChecked .addrStatus))
  | addressed {t} : CWalked { s.afterStatus with rp := readPhase s.statusAnswer, iReg := s.iReg + 1 } t →
      CleanStep s .addrStatus (.status s.statusAnswer) t
  | nack : s.lastByte = true → CleanStep s .readCall .nack (s.busNack.goto (.execChecked .readWait))
  | ack : s.lastByte = false → CleanStep s .readCall .ack (s.busAck.goto (.execChecked .readWait))
  | readDone : s.waitAnswer = .done →
      CleanStep s .readWait (.wait .done) (s.afterWait.goto (.execChecked .readStatus))
  | good : CleanStep s .readStatus (.status s.statusAnswer) (s.afterStatus.goto (.execChecked .readData))
  | data : CleanStep s .readData (.read s.dataAnswer)
      (s.afterRead.goto (.execChecked (.readReport (readOutput s.lastByte s.dataAnswer))))
  | more (b c r) : CleanStep s (.readReport (b :: c :: r)) (.tx b s.sendAnswer)
      ((s.tx b).goto (.execChecked (.readReport (c :: r))))
  | again (b) : s.lastByte = false → CleanStep s (.readReport [b]) (.tx b s.sendAnswer)
      { s.tx b with kReg := s.kReg + 1, mode := .execChecked .readCall }
  | readEnd {t} (b) : s.lastByte = true → CWalked { s.tx b with rp := false, iReg := s.iReg + 1 } t →
      CleanStep s (.readReport [b]) (.tx b s.sendAnswer) t
  | write : WriteInv s → CleanStep s .token (.write (writeByte s.tReg))
      ((s.busWrite (writeByte s.tReg)).goto (.execChecked .writeWait))
  | written {t} : s.waitAnswer = .done → CWalked { s.afterWait with iReg := s.iReg + 1 } t →
      CleanStep s .writeWait (.wait .done) t
  | stop : CleanStep s .stop .stop (s.busStop.goto (.execChecked .release))
  | released : s.releaseAnswer = .done → CleanStep s .release (.release .done) s.afterRelease.foldErr.startLine
  | held : s.releaseAnswer = .timeout →
      CleanStep s .release (.release .timeout) (s.afterRelease.goto (.execChecked .releaseReset))
  | releaseReset : s.resetAnswer = .ok →
      CleanStep s .releaseReset (.reset .ok) (s.afterReset.flag .bro).foldErr.startLine

/-- A move of a walk that flags no failed check is a clean step, or its wait expires. -/
theorem CheckedMove.clean {s t : State} {p : CheckedAt} (h : CheckedMove s p t) (hp : p.inv s)
    (hr : p ≠ .readReport []) (ht : p ≠ .timeout) (hf : ¬ CheckFailed t.err) :
    (∃ e, CleanStep s p e t) ∨ t.trace = s.trace ++ [.wait .timeout] := by
  cases h with
  | start hin hne hs =>
    obtain rfl := CheckedAt.eq_token_of_start hp hin hne hs
    exact .inl ⟨_, .start (Nat.le_of_not_lt hs)⟩
  | write hin hne hl hrp =>
    obtain rfl := CheckedAt.eq_token_of_write hp hin hne hl hrp
    exact .inl ⟨_, .write ⟨hl, hrp⟩⟩
  | count hin hrep hne hl hrp => exact absurd hp (CheckedAt.not_inv_count hin hrep hne hl hrp)
  | zero hin hrep hne hrp h0 => exact absurd hp (CheckedAt.not_inv_count hin hrep hne (lt_startBase_of_zero h0) hrp)
  | expired _ hw => exact .inr (by rw [State.goto_trace, State.afterWait_trace, hw])
  | refused | nacked => exact absurd (checkFailed_flag s.afterStatus (by decide)) hf
  | bad => exact absurd (checkFailed_flag s.afterStatus (readFailure_ne_bro _)) hf
  | startDone hw => exact .inl ⟨_, .startDone hw⟩
  | accepted => exact .inl ⟨_, .accepted⟩
  | addr => exact .inl ⟨_, .addr⟩
  | addrDone hw => exact .inl ⟨_, .addrDone hw⟩
  | addressed _ hn => exact .inl ⟨_, .addressed hn⟩
  | nack hl => exact .inl ⟨_, .nack hl⟩
  | ack hl => exact .inl ⟨_, .ack hl⟩
  | readDone hw => exact .inl ⟨_, .readDone hw⟩
  | good => exact .inl ⟨_, .good⟩
  | data => exact .inl ⟨_, .data⟩
  | more b c r => exact .inl ⟨_, .more b c r⟩
  | again hu hl =>
    cases hu with
    | none => exact absurd rfl hr
    | last b => exact .inl ⟨_, .again b hl⟩
  | readEnd hu hl hn =>
    cases hu with
    | none => exact absurd rfl hr
    | last b => exact .inl ⟨_, .readEnd b hl hn⟩
  | written hw hn => exact .inl ⟨_, .written hw hn⟩
  | reset => exact absurd rfl ht
  | stop => exact .inl ⟨_, .stop⟩
  | released hw => exact .inl ⟨_, .released hw⟩
  | held hw => exact .inl ⟨_, .held hw⟩
  | releaseReset hw => exact .inl ⟨_, .releaseReset hw⟩

theorem CleanStep.trace {s t : State} {p : CheckedAt} {e : Event} (h : CleanStep s p e t) :
    t.trace = s.trace ++ [e] := by
  cases h with
  | startDone hw | addrDone hw | readDone hw => rw [State.goto_trace, State.afterWait_trace, hw]
  | addressed hn | readEnd _ _ hn => exact hn.trace
  | written hw hn => rw [hn.trace, ← hw]; rfl
  | released hw => rw [← hw]; rfl
  | held hw => rw [← hw]; rfl
  | releaseReset hw => rw [← hw]; rfl
  | _ => rfl

/-- Where a walk stands while no wait has expired: at the line, or at a sub-state that its registers agree with. -/
def OnWalk (s : State) : Prop :=
  s.mode = .lex .l1 ∨ ∃ p, s.mode = .execChecked p ∧ p.inv s ∧ p ≠ .readReport [] ∧ p ≠ .timeout

/-- A walk's fetch leads to such a sub-state, whatever the length of the line. -/
theorem CWalked.onWalk {s t : State} (h : CWalked s t) : OnWalk t := by
  cases h with
  | stop | zero => exact .inr ⟨_, rfl, trivial, by simp, by simp⟩
  | token w _ hw hc => exact .inr ⟨_, rfl, ⟨tokenInv_of_fetch hw rfl rfl rfl, start_or_write hc⟩, by simp, by simp⟩
  | count w _ hw hr hlt h0 =>
    exact .inr ⟨_, rfl, ⟨tokenInv_of_fetch hw rfl rfl rfl, readInv_of_entry hlt hr h0 rfl rfl⟩, by simp, by simp⟩

/-- So does a clean step. -/
theorem CleanStep.onWalk {s t : State} {p : CheckedAt} {e : Event} (h : CleanStep s p e t) (hp : p.inv s) :
    OnWalk t := by
  cases h with
  | start hs => exact .inr ⟨_, rfl, ⟨hp.1, hs⟩, by simp, by simp⟩
  | accepted => exact .inr ⟨_, rfl, ⟨hp.1, hp.2, rfl⟩, by simp, by simp⟩
  | write hw => exact .inr ⟨_, rfl, ⟨hp.1, hw⟩, by simp, by simp⟩
  | again b hl => exact .inr ⟨_, rfl, ⟨hp.1, hp.2.next hl rfl rfl rfl rfl⟩, by simp, by simp⟩
  | data => exact .inr ⟨_, rfl, hp, by simp [readOutput_ne_nil], by simp⟩
  | startDone | addr | addrDone | nack | ack | readDone | good | more => exact .inr ⟨_, rfl, hp, by simp, by simp⟩
  | addressed hn | readEnd _ _ hn | written _ hn => exact hn.onWalk
  | stop | held => exact .inr ⟨_, rfl, trivial, by simp, by simp⟩
  | released | releaseReset => exact .inl rfl

/-- The address status among a step's calls, which alone of the statuses the Broadcast executor reads (R173). -/
def CheckedAt.address : CheckedAt → Event → List Byte
  | .addrStatus, .status y => [y]
  | _, _ => []

/-- An error-free checked walk from `c` on to its return, with its events and its address statuses. -/
inductive CleanWalk : State → List Event → List Byte → Prop
  | line {c} : c.mode = .lex .l1 → CleanWalk c [] []
  | step {c c' p e es ys} : c.mode = .execChecked p → p.inv c → ¬ CheckFailed c'.err → CleanStep c p e c' →
      CleanWalk c' es ys → CleanWalk c (e :: es) (p.address e ++ ys)

/-- The runs of R179 are such walks. -/
theorem ErrorFree.cleanWalk {n : Nat} {c tc : State} {es : List Event} (h : ErrorFree n c tc es) (hc : OnWalk c) :
    ∃ ys, CleanWalk c es ys := by
  induction n generalizing c es with
  | zero =>
    cases h.reaches
    obtain ⟨rfl, -⟩ := h.line h.mode
    exact ⟨[], .line h.mode⟩
  | succ n ih =>
    rcases hc with hm | ⟨p, hm, hp, hr, ht⟩
    · obtain ⟨rfl, -⟩ := h.line hm
      exact ⟨[], .line hm⟩
    · obtain ⟨c', l, es', hmove, hl, rfl, h'⟩ := h.next_checked hm
      have hpass := h'.not_checkFailed hmove.mode
      rcases hmove.clean hp hr ht hpass with ⟨e, hs⟩ | hexp
      · obtain rfl : l = [e] := List.append_cancel_left (hl.symm.trans hs.trace)
        obtain ⟨ys, hwalk⟩ := ih h' (hs.onWalk hp)
        exact ⟨_, .step hm hp hpass hs hwalk⟩
      · obtain rfl : l = [.wait .timeout] := List.append_cancel_left (hl.symm.trans hexp)
        exact absurd List.mem_cons_self h.noTimeout

/-! ### The address statuses of such a walk (R173) -/

/-- Where nothing is due, no status is read next (R53). -/
theorem CleanWalk.head_not_status {c : State} {es : List Event} {ys : List Byte} (h : CleanWalk c es ys)
    (hd : c.mode.due = .free) : es.head?.bind Event.statusRead = none := by
  cases h with
  | line => rfl
  | step hm _ _ hs _ =>
    rw [hm] at hd
    cases hs with
    | accepted | addressed | good => cases hd
    | _ => rfl

/-- A written byte whose wait no status follows has no address status. -/
theorem addressStatuses_written (b : Byte) (a : WaitAnswer) {es : List Event}
    (h : es.head?.bind Event.statusRead = none) :
    addressStatuses (.write b :: .wait a :: es) = addressStatuses es := by
  cases es with
  | nil => rfl
  | cons e es =>
    cases e with
    | status => cases h
    | _ => rfl

/-- The calls before a sub-state that a status after them would make an address status. -/
def State.lead (s : State) : List Event :=
  match s.mode with
  | .execChecked .addrWait => [.write s.abReg]
  | .execChecked .addrStatus => [.write s.abReg, .wait .done]
  | .execChecked .writeWait => [.write (writeByte s.tReg)]
  | _ => []

theorem State.lead_eq_nil {s : State} (h : s.mode.due = .free) : s.lead = [] := by
  rw [State.lead]
  split
  · rename_i hm; rw [hm] at h; cases h
  · rename_i hm; rw [hm] at h; cases h
  · rename_i hm; rw [hm] at h; cases h
  · rfl

/-- The address statuses of a walk's events are those that its steps at an address read. -/
theorem CleanWalk.addressStatuses_eq {c : State} {es : List Event} {ys : List Byte} (h : CleanWalk c es ys) :
    addressStatuses (c.lead ++ es) = ys := by
  induction h with
  | line hm => rw [State.lead_eq_nil (by rw [hm]; rfl)]; rfl
  | @step c c' p e es ys hm hp _ hs hw ih =>
    rw [State.lead, hm]
    cases hs with
    | addressed hn =>
      rw [State.lead_eq_nil hn.due] at ih
      exact congrArg (c.statusAnswer :: ·) ih
    | readEnd _ _ hn =>
      rw [State.lead_eq_nil hn.due] at ih
      exact ih
    | written _ hn =>
      rw [State.lead_eq_nil hn.due] at ih
      exact (addressStatuses_written _ _ (hw.head_not_status hn.due)).trans ih
    | _ => exact ih

end Sys2Proof.Machine

/-! ## The Broadcast executor repeats an error-free checked walk (R179) -/

namespace Sys2Proof.Machine

/-! ### Steps of the Broadcast executor (R172 to R177) -/

section BcastSteps

variable {s : State}

/-- A start token's word decodes to its instruction, whose address byte is the word's (R71). -/
theorem StartInv.startInstr (h : StartInv s) : ∃ hi a d, decodeWord s.rp s.tReg = startInstr hi a d ∧
    addrByte a d = (s.tReg - BitVec.ofNat _ Config.startBase).setWidth 8 := by
  obtain ⟨hi, a, ⟨hd, ha⟩ | ⟨hd, ha⟩⟩ := decodeWord_start (rp := s.rp) h.not_lt
  · exact ⟨hi, a, false, hd, ha⟩
  · exact ⟨hi, a, true, hd, ha⟩

theorem step_bcast_start (hm : s.mode = .execBcast .token) (h : StartInv s) :
    step s = .next (s.busStart.goto (.execBcast .startWait)) := by
  obtain ⟨hi, a, d, hd, -⟩ := h.startInstr
  exact step_startInstr_bcast hm rfl hd

theorem step_bcast_of_read {p : BcastAt} (hm : s.mode = .execBcast p) (hp : p.inToken = true) (h : ReadInv s) :
    step s = bcastRead s.tReg p s := by
  obtain ⟨ht, hr, -⟩ := h
  rw [step_bcast_token hm hp, if_pos ht, if_pos hr]

theorem step_bcast_nack (hm : s.mode = .execBcast .readCall) (h : ReadInv s) (hl : s.lastByte = true) :
    step s = .next (s.busNack.goto (.execBcast .readWait)) := by
  rw [step_bcast_of_read hm rfl h, bcastRead, if_pos hl]

theorem step_bcast_ack (hm : s.mode = .execBcast .readCall) (h : ReadInv s) (hl : s.lastByte = false) :
    step s = .next (s.busAck.goto (.execBcast .readWait)) := by
  rw [step_bcast_of_read hm rfl h, bcastRead, if_neg (by simp [hl])]

theorem step_bcast_readWait {ws : List WaitAnswer} (hm : s.mode = .execBcast .readWait) (h : ReadInv s)
    (hw : s.env.waits = .done :: ws) :
    step s = .next { s with env := { s.env with waits := ws }, draws := s.draws + 1,
                            trace := s.trace ++ [.wait .done], mode := .execBcast .readData } := by
  rw [step_bcast_of_read hm rfl h, bcastRead, bcastWait_done hw]
  rfl

theorem step_bcast_readData {d : Byte} {dd : List Byte} (hm : s.mode = .execBcast .readData) (h : ReadInv s)
    (hd : s.env.datas = d :: dd) :
    step s = .next { s with dbReg := d, env := { s.env with datas := dd }, draws := s.draws + 1,
                            trace := s.trace ++ [.read d],
                            mode := .execBcast (.readReport (readOutput s.lastByte d)) } := by
  rw [step_bcast_of_read hm rfl h, bcastRead, dataAnswer_eq hd, afterRead_eq hd]
  rfl

theorem step_bcast_more {b c : Byte} {r : List Byte} (hm : s.mode = .execBcast (.readReport (b :: c :: r)))
    (h : ReadInv s) : step s = .next ((s.tx b).goto (.execBcast (.readReport (c :: r)))) :=
  step_bcast_of_read hm rfl h

/-- The last character of a byte before the last, and the next byte (R174). -/
theorem step_bcast_again {b : Byte} (hm : s.mode = .execBcast (.readReport [b])) (h : ReadInv s)
    (hl : s.lastByte = false) :
    step s = .next { s.tx b with kReg := s.kReg + 1, mode := .execBcast .readCall } :=
  (step_bcast_of_read hm rfl h).trans (if_neg (by rw [show (s.tx b).lastByte = false from hl]; exact nofun))

/-- The LF of the last byte, and the walk's advance (R174). -/
theorem step_bcast_readEnd {b : Byte} (hm : s.mode = .execBcast (.readReport [b])) (h : ReadInv s)
    (hl : s.lastByte = true) : step s = bcastAdvance { s.tx b with rp := false } :=
  (step_bcast_of_read hm rfl h).trans (if_pos hl)

theorem step_bcast_of_write {p : BcastAt} (hm : s.mode = .execBcast p) (hp : p.inToken = true)
    (h : WriteInv s) : step s = bcastWrite s.tReg p s := by
  obtain ⟨ht, hr⟩ := h
  rw [step_bcast_token hm hp, if_pos ht, if_neg (by simp [hr])]

theorem step_bcast_write (hm : s.mode = .execBcast .token) (h : WriteInv s) :
    step s = .next ((s.busWrite (writeByte s.tReg)).goto (.execBcast .writeWait)) :=
  step_bcast_of_write hm rfl h

theorem step_bcast_writeWait {ws : List WaitAnswer} (hm : s.mode = .execBcast .writeWait) (h : WriteInv s)
    (hw : s.env.waits = .done :: ws) :
    step s = bcastAdvance { s with env := { s.env with waits := ws }, draws := s.draws + 1,
                                   trace := s.trace ++ [.wait .done] } := by
  rw [step_bcast_of_write hm rfl h, bcastWrite, bcastWait_done hw]

theorem step_bcast_stop (hm : s.mode = .execBcast .stop) :
    step s = .next (s.busStop.goto (.execBcast .release)) := by
  rw [step_bcast_end hm rfl, exec, execEol, hm]
  rfl

theorem step_bcast_release (hm : s.mode = .execBcast .release) : step s = bcastRelease s := by
  rw [step_bcast_end hm rfl, exec, execEol, hm]

/-- The release comes, and the next line starts (R177). -/
theorem step_bcast_released {rl : List WaitAnswer} (hm : s.mode = .execBcast .release)
    (h : s.env.releases = .done :: rl) :
    step s = .next ({ s with env := { s.env with releases := rl }, draws := s.draws + 1,
                             trace := s.trace ++ [.release .done] } : State).startLine := by
  rw [step_bcast_release hm, bcastRelease, releaseAnswer_eq h, afterRelease_eq h]

theorem step_bcast_held {rl : List WaitAnswer} (hm : s.mode = .execBcast .release)
    (h : s.env.releases = .timeout :: rl) :
    step s = .next { s with env := { s.env with releases := rl }, draws := s.draws + 1,
                            trace := s.trace ++ [.release .timeout], mode := .execBcast .releaseReset } := by
  rw [step_bcast_release hm, bcastRelease, releaseAnswer_eq h, afterRelease_eq h]
  rfl

/-- The bus reset of an expired release, and the next line (R177). -/
theorem step_bcast_releaseReset {rs : List ResetAnswer} (hm : s.mode = .execBcast .releaseReset)
    (h : s.env.resets = .ok :: rs) :
    step s = .next ({ s with env := { s.env with resets := rs }, draws := s.draws + 1,
                             trace := s.trace ++ [.reset .ok] } : State).startLine := by
  rw [step_bcast_end hm rfl, exec, execEol, hm]
  refine (busReset_ok h).trans ?_
  rw [afterReset_eq h]
  rfl

end BcastSteps

/-! ### The answers that are left for a walk (R13) -/

/-- The environment has the answers ready that the events `es` took, and the statuses `ys` for the status reads. -/
def Ready (es : List Event) (ys : List Byte) (v : Env) : Prop :=
  es.filterMap Event.waited <+: v.waits ∧ es.filterMap Event.released <+: v.releases ∧
    es.filterMap Event.received <+: v.datas ∧ es.filterMap Event.wasReset <+: v.resets ∧ ys <+: v.statuses

theorem Ready.wait {a : WaitAnswer} {es : List Event} {ys : List Byte} {v : Env} (h : Ready (.wait a :: es) ys v) :
    ∃ ws, v.waits = a :: ws ∧ Ready es ys { v with waits := ws } := by
  obtain ⟨hw, hrest⟩ := h
  obtain ⟨ws, hv, hws⟩ := List.cons_prefix_iff.1 hw
  exact ⟨ws, hv, hws, hrest⟩

theorem Ready.release {a : WaitAnswer} {es : List Event} {ys : List Byte} {v : Env}
    (h : Ready (.release a :: es) ys v) : ∃ rl, v.releases = a :: rl ∧ Ready es ys { v with releases := rl } := by
  obtain ⟨hw, hl, hrest⟩ := h
  obtain ⟨rl, hv, hrl⟩ := List.cons_prefix_iff.1 hl
  exact ⟨rl, hv, hw, hrl, hrest⟩

theorem Ready.read {d : Byte} {es : List Event} {ys : List Byte} {v : Env} (h : Ready (.read d :: es) ys v) :
    ∃ dd, v.datas = d :: dd ∧ Ready es ys { v with datas := dd } := by
  obtain ⟨hw, hl, hd, hrest⟩ := h
  obtain ⟨dd, hv, hdd⟩ := List.cons_prefix_iff.1 hd
  exact ⟨dd, hv, hw, hl, hdd, hrest⟩

theorem Ready.reset {a : ResetAnswer} {es : List Event} {ys : List Byte} {v : Env} (h : Ready (.reset a :: es) ys v) :
    ∃ rs, v.resets = a :: rs ∧ Ready es ys { v with resets := rs } := by
  obtain ⟨hw, hl, hd, hr, hy⟩ := h
  obtain ⟨rs, hv, hrs⟩ := List.cons_prefix_iff.1 hr
  exact ⟨rs, hv, hw, hl, hd, hrs, hy⟩

/-- An address status that the Broadcast executor reads too. -/
theorem Ready.status {y : Byte} {es : List Event} {ys : List Byte} {v : Env} (h : Ready (.status y :: es) (y :: ys) v) :
    ∃ ss, v.statuses = y :: ss ∧ Ready es ys { v with statuses := ss } := by
  obtain ⟨hw, hl, hd, hr, hy⟩ := h
  obtain ⟨ss, hv, hss⟩ := List.cons_prefix_iff.1 hy
  exact ⟨ss, hv, hw, hl, hd, hr, hss⟩

/-! ### The sub-state that repeats one of a checked walk (R170) -/

/-- The Broadcast executor makes no status read after a start or a read byte, so there it is one call ahead. -/
def CheckedAt.inBcast : CheckedAt → BcastAt
  | .token => .token
  | .startWait => .startWait
  | .startStatus | .addr => .addr
  | .addrWait => .addrWait
  | .addrStatus => .addrStatus
  | .readCall => .readCall
  | .readWait => .readWait
  | .readStatus | .readData => .readData
  | .readReport r => .readReport r
  | .writeWait => .writeWait
  | .timeout => .timeout
  | .stop => .stop
  | .release => .release
  | .releaseReset => .releaseReset
  | .fatal => .fatal

@[inherit_doc CheckedAt.inBcast] def Mode.inBcast : Mode → Mode
  | .execChecked p => .execBcast p.inBcast
  | m => m

/-- The line, the token and the read loop's registers, which both executors use alike (R141 to R151, R171 to R175). -/
def State.walkRegs (s : State) : Buffer × BitVec 9 × Word × Bool × Word × Word :=
  (s.tb, s.iReg, s.tReg, s.rp, s.nReg, s.kReg)

/-- `b` stands in a Broadcast walk where `c` stands in a checked one; its address byte has been formed before the
address is written. -/
structure Shadows (c b : State) : Prop where
  mode : b.mode = c.mode.inBcast
  regs : b.walkRegs = c.walkRegs
  address : b.mode = .execBcast .addr → b.abReg = (b.tReg - BitVec.ofNat _ Config.startBase).setWidth 8

section Shadows

variable {c b : State}

theorem tb_of_walkRegs (h : b.walkRegs = c.walkRegs) : b.tb = c.tb := congrArg (·.1) h
theorem iReg_of_walkRegs (h : b.walkRegs = c.walkRegs) : b.iReg = c.iReg := congrArg (·.2.1) h
theorem tReg_of_walkRegs (h : b.walkRegs = c.walkRegs) : b.tReg = c.tReg := congrArg (·.2.2.1) h
theorem rp_of_walkRegs (h : b.walkRegs = c.walkRegs) : b.rp = c.rp := congrArg (·.2.2.2.1) h

theorem nReg_of_walkRegs (h : b.walkRegs = c.walkRegs) : b.nReg = c.nReg := congrArg (·.2.2.2.2.1) h
theorem kReg_of_walkRegs (h : b.walkRegs = c.walkRegs) : b.kReg = c.kReg := congrArg (·.2.2.2.2.2) h

theorem lastByte_of_walkRegs (h : b.walkRegs = c.walkRegs) : b.lastByte = c.lastByte := by
  rw [State.lastByte, State.lastByte, nReg_of_walkRegs h, kReg_of_walkRegs h]

theorem startInv_of_walkRegs (h : b.walkRegs = c.walkRegs) (hs : StartInv c) : StartInv b := by
  rw [StartInv, tReg_of_walkRegs h]; exact hs

theorem writeInv_of_walkRegs (h : b.walkRegs = c.walkRegs) (hs : WriteInv c) : WriteInv b := by
  rw [WriteInv, tReg_of_walkRegs h, rp_of_walkRegs h]; exact hs

theorem readInv_of_walkRegs (h : b.walkRegs = c.walkRegs) (hs : ReadInv c) : ReadInv b := by
  rw [ReadInv, tReg_of_walkRegs h, rp_of_walkRegs h, nReg_of_walkRegs h, kReg_of_walkRegs h]; exact hs

end Shadows

/-- A fetch that reads a live slot enters its token (R141). -/
theorem walkFetch_token {enter : State → Out} {stop : Mode} {s : State} {w : Word} (hne : s.iReg.toNat ≠ s.tbLen)
    (hw : s.token s.iReg.toNat = some w) : walkFetch enter stop s = enter { s with tReg := w } := by
  rw [walkFetch, if_neg hne, hw]

/-- The Broadcast executor's fetch repeats the checked executor's, where that flags no count of 0 (R141, R171). -/
theorem CWalked.shadowed {c t b : State} (h : CWalked c t) (hf : ¬ CheckFailed t.err)
    (hr : b.walkRegs = c.walkRegs) :
    ∃ b', walkFetch bcastEnter (.execBcast .stop) b = .next b' ∧ Shadows t b' ∧
      b' = { b with tReg := b'.tReg, nReg := b'.nReg, kReg := b'.kReg, mode := b'.mode } := by
  have hi := iReg_of_walkRegs hr
  have hlen : b.tbLen = c.tbLen := tbLen_of_tb_eq (tb_of_walkRegs hr)
  have htok (a : Nat) : b.token a = c.token a := token_of_tb_eq (tb_of_walkRegs hr) a
  cases h with
  | stop hend => exact ⟨_, walkFetch_end (by rw [hi, hlen]; exact hend), ⟨rfl, hr, nofun⟩, rfl⟩
  | token w hne hw hc =>
    rw [← hi, ← hlen] at hne
    rw [← hi, ← htok] at hw
    rw [← rp_of_walkRegs hr] at hc
    exact ⟨_, (walkFetch_token hne hw).trans (if_neg hc),
      ⟨rfl, congrArg (fun r => (r.1, r.2.1, w, r.2.2.2)) hr, nofun⟩, rfl⟩
  | count w hne hw hrp hl h0 =>
    rw [← hi, ← hlen] at hne
    rw [← hi, ← htok] at hw
    rw [← rp_of_walkRegs hr] at hrp
    exact ⟨_, (walkFetch_token hne hw).trans (bcastEnter_count hrp hl h0),
      ⟨rfl, congrArg (fun r => (r.1, r.2.1, w, r.2.2.2.1, w, 1)) hr, nofun⟩, rfl⟩
  | zero => exact absurd (checkFailed_flag { c with tReg := 0, nReg := 0 } (by decide)) hf

/-- A step of the Broadcast executor that advances its walk repeats one that advances the checked walk. -/
theorem CWalked.advanced {v t b b1 : State} {f : Event} (h : CWalked v t) (hf : ¬ CheckFailed t.err)
    (hstep : step b = bcastAdvance b1) (hr : { b1 with iReg := b1.iReg + 1 }.walkRegs = v.walkRegs)
    (hi : b1.input = b.input) (ht : b1.trace = b.trace ++ [f]) :
    ∃ b', step b = .next b' ∧ Shadows t b' ∧ b'.input = b.input ∧ b'.trace = b.trace ++ [f] ∧ b'.env = b1.env := by
  obtain ⟨b', hfetch, hsh, hfr⟩ := h.shadowed hf hr
  exact ⟨b', hstep.trans hfetch, hsh, by rw [hfr]; exact hi, by rw [hfr]; exact ht, by rw [hfr]⟩

/-! ### One step of the checked walk, repeated (R179) -/

/-- `b'` is where the Broadcast walk stands once it has repeated the call `e` of the checked walk: by the same call,
where a send may report another status; by the same status read, an address's, `zs` being what it read; or by no
call at all, where `e` is another status read. -/
inductive Mirrors (b : State) : Event → List Byte → State → Prop
  | call {e f b'} : step b = .next b' → b'.input = b.input → b'.trace = b.trace ++ [f] → f.plain = e.plain →
      e.statusRead = none → f.statusRead = none → Mirrors b e [] b'
  | status {y b'} : step b = .next b' → b'.input = b.input → b'.trace = b.trace ++ [.status y] →
      Mirrors b (.status y) [y] b'
  | ahead (y) : Mirrors b (.status y) [] b

/-- The Broadcast executor, in step with the checked one and with the same answers ready, repeats a clean step. -/
theorem CleanStep.mirrored {c c' b : State} {p : CheckedAt} {e : Event} {es : List Event} {ys : List Byte}
    (hs : CleanStep c p e c') (hm : c.mode = .execChecked p) (hp : p.inv c) (hf : ¬ CheckFailed c'.err)
    (hb : Shadows c b) (hr : Ready (e :: es) (p.address e ++ ys) b.env) :
    ∃ b', Mirrors b e (p.address e) b' ∧ Shadows c' b' ∧ Ready es ys b'.env := by
  obtain ⟨hmode, hregs, haddr⟩ := hb
  rw [hm] at hmode
  cases hs with
  | start hs =>
    exact ⟨_, .call (step_bcast_start hmode (startInv_of_walkRegs hregs hs)) rfl rfl rfl rfl rfl,
      ⟨rfl, hregs, nofun⟩, hr⟩
  | startDone =>
    obtain ⟨-, hs⟩ := hp
    obtain ⟨hi, a, d, hd, hab⟩ := (startInv_of_walkRegs hregs hs).startInstr
    obtain ⟨ws, hws, hr⟩ := hr.wait
    exact ⟨_, .call (step_bcast_startWait hmode hd hws) rfl rfl rfl rfl rfl, ⟨rfl, hregs, fun _ => hab⟩, hr⟩
  | accepted => exact ⟨b, .ahead _, ⟨hmode, hregs, haddr⟩, hr⟩
  | addr =>
    obtain ⟨-, hs, hab⟩ := hp
    obtain ⟨hi, a, d, hd, -⟩ := (startInv_of_walkRegs hregs hs).startInstr
    have hsame : b.abReg = c.abReg := by rw [haddr hmode, tReg_of_walkRegs hregs, hab]
    exact ⟨_, .call (step_bcast_addr hmode hd) rfl rfl (by rw [hsame]) rfl rfl, ⟨rfl, hregs, nofun⟩, hr⟩
  | addrDone =>
    obtain ⟨-, hs, -⟩ := hp
    obtain ⟨hi, a, d, hd, -⟩ := (startInv_of_walkRegs hregs hs).startInstr
    obtain ⟨ws, hws, hr⟩ := hr.wait
    exact ⟨_, .call (step_bcast_addrWait hmode hd hws) rfl rfl rfl rfl rfl, ⟨rfl, hregs, nofun⟩, hr⟩
  | addressed hn =>
    obtain ⟨-, hs, -⟩ := hp
    obtain ⟨hi, a, d, hd, -⟩ := (startInv_of_walkRegs hregs hs).startInstr
    obtain ⟨ss, hss, hr⟩ := hr.status
    rw [readPhase_eq] at hn
    obtain ⟨b', hstep, hsh, hi, ht, henv⟩ := hn.advanced hf (step_bcast_addrStatus hmode hd hss)
      (congrArg (fun r => (r.1, r.2.1 + 1, r.2.2.1, decide (c.statusAnswer = 0x40), r.2.2.2.2)) hregs) rfl rfl
    exact ⟨b', .status hstep hi ht, hsh, henv ▸ hr⟩
  | nack hl =>
    obtain ⟨-, hread⟩ := hp
    exact ⟨_, .call (step_bcast_nack hmode (readInv_of_walkRegs hregs hread)
      ((lastByte_of_walkRegs hregs).trans hl)) rfl rfl rfl rfl rfl, ⟨rfl, hregs, nofun⟩, hr⟩
  | ack hl =>
    obtain ⟨-, hread⟩ := hp
    exact ⟨_, .call (step_bcast_ack hmode (readInv_of_walkRegs hregs hread)
      ((lastByte_of_walkRegs hregs).trans hl)) rfl rfl rfl rfl rfl, ⟨rfl, hregs, nofun⟩, hr⟩
  | readDone =>
    obtain ⟨-, hread⟩ := hp
    obtain ⟨ws, hws, hr⟩ := hr.wait
    exact ⟨_, .call (step_bcast_readWait hmode (readInv_of_walkRegs hregs hread) hws) rfl rfl rfl rfl rfl,
      ⟨rfl, hregs, nofun⟩, hr⟩
  | good => exact ⟨b, .ahead _, ⟨hmode, hregs, fun h => by rw [hmode] at h; cases h⟩, hr⟩
  | data =>
    obtain ⟨-, hread⟩ := hp
    obtain ⟨dd, hdd, hr⟩ := hr.read
    have hstep := step_bcast_readData hmode (readInv_of_walkRegs hregs hread) hdd
    rw [lastByte_of_walkRegs hregs] at hstep
    exact ⟨_, .call hstep rfl rfl rfl rfl rfl, ⟨rfl, hregs, nofun⟩, hr⟩
  | more =>
    obtain ⟨-, hread⟩ := hp
    exact ⟨_, .call (step_bcast_more hmode (readInv_of_walkRegs hregs hread)) rfl rfl rfl rfl rfl,
      ⟨rfl, hregs, nofun⟩, hr⟩
  | again x hl =>
    obtain ⟨-, hread⟩ := hp
    have hstep := step_bcast_again hmode (readInv_of_walkRegs hregs hread) ((lastByte_of_walkRegs hregs).trans hl)
    exact ⟨_, .call hstep rfl rfl rfl rfl rfl,
      ⟨rfl, congrArg (fun r => (r.1, r.2.1, r.2.2.1, r.2.2.2.1, r.2.2.2.2.1, r.2.2.2.2.2 + 1)) hregs, nofun⟩, hr⟩
  | readEnd x hl hn =>
    obtain ⟨-, hread⟩ := hp
    have hend := step_bcast_readEnd hmode (readInv_of_walkRegs hregs hread) ((lastByte_of_walkRegs hregs).trans hl)
    obtain ⟨b', hstep, hsh, hi, ht, henv⟩ := hn.advanced hf hend
      (congrArg (fun r => (r.1, r.2.1 + 1, r.2.2.1, false, r.2.2.2.2)) hregs) rfl rfl
    exact ⟨b', .call hstep hi ht rfl rfl rfl, hsh, henv ▸ hr⟩
  | write hw =>
    have hstep := step_bcast_write hmode (writeInv_of_walkRegs hregs hw)
    rw [tReg_of_walkRegs hregs] at hstep
    exact ⟨_, .call hstep rfl rfl rfl rfl rfl, ⟨rfl, hregs, nofun⟩, hr⟩
  | written _ hn =>
    obtain ⟨-, hwrite⟩ := hp
    obtain ⟨ws, hws, hr⟩ := hr.wait
    obtain ⟨b', hstep, hsh, hi, ht, henv⟩ := hn.advanced hf
      (step_bcast_writeWait hmode (writeInv_of_walkRegs hregs hwrite) hws)
      (congrArg (fun r => (r.1, r.2.1 + 1, r.2.2)) hregs) rfl rfl
    exact ⟨b', .call hstep hi ht rfl rfl rfl, hsh, henv ▸ hr⟩
  | stop => exact ⟨_, .call (step_bcast_stop hmode) rfl rfl rfl rfl rfl, ⟨rfl, hregs, nofun⟩, hr⟩
  | released =>
    obtain ⟨rl, hrl, hr⟩ := hr.release
    exact ⟨_, .call (step_bcast_released hmode hrl) rfl rfl rfl rfl rfl,
      ⟨rfl, congrArg (fun r => (writeSlot r.1 0 1, r.2)) hregs, nofun⟩, hr⟩
  | held =>
    obtain ⟨rl, hrl, hr⟩ := hr.release
    exact ⟨_, .call (step_bcast_held hmode hrl) rfl rfl rfl rfl rfl, ⟨rfl, hregs, nofun⟩, hr⟩
  | releaseReset =>
    obtain ⟨rs, hrs, hr⟩ := hr.reset
    exact ⟨_, .call (step_bcast_releaseReset hmode hrs) rfl rfl rfl rfl rfl,
      ⟨rfl, congrArg (fun r => (writeSlot r.1 0 1, r.2)) hregs, nofun⟩, hr⟩

/-! ### The whole walk, repeated (R179) -/

/-- From `b` the Broadcast executor repeats the events `es` but for the status reads, reads the statuses `zs`, and
comes to the line with the input untouched. -/
def Repeats (b : State) (es : List Event) (zs : List Byte) : Prop :=
  ∃ (m : Nat) (u : State), Reaches m b u ∧ u.mode = .lex .l1 ∧ u.input = b.input ∧
    ∃ fs, u.trace = b.trace ++ fs ∧ besideStatus fs = besideStatus es ∧ fs.filterMap Event.statusRead = zs

theorem repeats_line {b : State} (hm : b.mode = .lex .l1) : Repeats b [] [] :=
  ⟨0, b, reaches_zero b, hm, rfl, [], (List.append_nil _).symm, rfl, rfl⟩

/-- A call that is no status read comes before what R179 compares of the others. -/
theorem besideStatus_cons {e : Event} (he : e.statusRead = none) (es : List Event) :
    besideStatus (e :: es) = e.plain :: besideStatus es := by
  rw [besideStatus, List.filter_cons_of_pos (by rw [he]; rfl)]
  rfl

/-- A step that repeats a call, before the repetition of the others. -/
theorem Mirrors.repeats {b b' : State} {e : Event} {es : List Event} {zs ys : List Byte} (h : Mirrors b e zs b')
    (hr : Repeats b' es ys) : Repeats b (e :: es) (zs ++ ys) := by
  obtain ⟨m, u, hrun, hm, hi, fs, ht, hbeside, hstatus⟩ := hr
  cases h with
  | @call _ f _ hstep hin htr hplain he hf =>
    refine ⟨m + 1, u, reaches_succ hstep hrun, hm, hi.trans hin, f :: fs, ?_, ?_, ?_⟩
    · rw [ht, htr, List.append_assoc]; rfl
    · rw [besideStatus_cons he, besideStatus_cons hf, hplain, hbeside]
    · rw [List.filterMap_cons_none hf]; exact hstatus
  | @status y _ hstep hin htr =>
    refine ⟨m + 1, u, reaches_succ hstep hrun, hm, hi.trans hin, .status y :: fs, ?_, hbeside, ?_⟩
    · rw [ht, htr, List.append_assoc]; rfl
    · exact congrArg (y :: ·) hstatus
  | ahead => exact ⟨m, u, hrun, hm, hi, fs, ht, hbeside, hstatus⟩

/-- An error-free checked walk is repeated by the Broadcast executor that has the same answers ready. -/
theorem CleanWalk.repeats {c b : State} {es : List Event} {ys : List Byte} (h : CleanWalk c es ys)
    (hb : Shadows c b) (hr : Ready es ys b.env) : Repeats b es ys := by
  induction h generalizing b with
  | line hm => exact repeats_line (by rw [hb.mode, hm]; rfl)
  | step hm hp hf hs _ ih =>
    obtain ⟨b', hmirror, hb', hr'⟩ := hs.mirrored hm hp hf hb hr
    exact hmirror.repeats (ih hb' hr')

/-- The dispatch of a checked walk (R106, R141). -/
theorem step_checkedEntry {s c : State} (hm : s.mode = .lex .ld) (ha : s.admin = false) (hb : s.bcast = false)
    (h : step s = .next c) : CWalked s.atWalk c := by
  rw [step_ld hm, dispatchLine_walk ha, if_neg (by simp [hb]), checkedEntry_eq] at h
  exact walkFetch_cwalked h

/-- The dispatch of a Broadcast walk (R106, R171). -/
theorem step_bcastEntry {s : State} (hm : s.mode = .lex .ld) (ha : s.admin = false) (hb : s.bcast = true) :
    step s = walkFetch bcastEnter (.execBcast .stop) s.atWalk := by
  rw [step_ld hm, dispatchLine_walk ha, if_pos hb, bcastEntry_eq]

/-- Settles O44: the checked run is a clean walk, whose address statuses are those of its events, and the Broadcast
executor, dispatched on the same line, repeats it. -/
theorem broadcastRepeatsAnErrorFreeCheckedWalk : Obligations.BroadcastRepeatsAnErrorFreeCheckedWalk := by
  intro s tc n es e hm ha hrun hmode htr hrx hwt herr hw hrel hd hrs hst
  have hfree : ErrorFree n { s with bcast := false } tc es := ⟨hrun, hmode, htr, hrx, hwt, not_checkFailed herr⟩
  cases n with
  | zero =>
    cases hrun
    exact absurd (hm.symm.trans hmode) nofun
  | succ n =>
    obtain ⟨c, l, es, hstep, hl, rfl, hrest⟩ := hfree.next
    have hfetch := step_checkedEntry (s := { s with bcast := false }) hm ha rfl hstep
    obtain rfl : l = [] := List.self_eq_append_right.1 (hfetch.trace.symm.trans hl)
    have hpass := hrest.not_checkFailed (.inl hfetch.mode)
    obtain ⟨ys, hwalk⟩ := hrest.cleanWalk hfetch.onWalk
    have hys : addressStatuses es = ys := by
      rw [← hwalk.addressStatuses_eq, State.lead_eq_nil hfetch.due]; rfl
    obtain ⟨b, hb, hsh, hframe⟩ := hfetch.shadowed (b := { s with bcast := true, env := e }.atWalk) hpass rfl
    have hready : Ready es ys b.env := by
      rw [hframe]
      exact ⟨hw, hrel, hd, hrs, hys ▸ hst⟩
    obtain ⟨m, u, hruns, hline, hinput, fs, htrace, hbeside, hstatus⟩ := hwalk.repeats hsh hready
    have hentry := step_bcastEntry (s := { s with bcast := true, env := e }) hm ha rfl
    exact ⟨m + 1, u, reaches_succ (hentry.trans hb) hruns, hline, hinput.trans (by rw [hframe]; rfl), fs,
      htrace.trans (by rw [hframe]; rfl), hbeside, hstatus.trans hys.symm⟩

end Sys2Proof.Machine

/-! ## The Broadcast executor: its expired waits, its cleanup and the last error (43_exec_broadcast.md) -/

namespace Sys2Proof.Machine

/-! ### An expired wait (R176) -/

theorem bcastWait_timeout {ok : State → Out} {s : State} {ws : List WaitAnswer} (h : s.env.waits = .timeout :: ws) :
    bcastWait ok s = .next { s with env := { s.env with waits := ws }, draws := s.draws + 1,
                                    trace := s.trace ++ [.wait .timeout], mode := .execBcast .timeout } := by
  rw [bcastWait, waitAnswer_eq h, afterWait_eq h]
  rfl

theorem step_bcast_of_start {s : State} {p : BcastAt} (hm : s.mode = .execBcast p) (hp : p.inToken = true)
    (hs : StartInv s) :
    step s = bcastStart ((s.tReg - BitVec.ofNat _ Config.startBase).setWidth 8) p s := by
  rw [step_bcast_token hm hp, if_neg hs.not_lt]

/-- A step at any of a walk's four waits is a `bcastWait` (R172 to R175). -/
theorem step_bcast_wait {s : State} {p : BcastAt}
    (hp : p ∈ ([.startWait, .addrWait, .readWait, .writeWait] : List BcastAt)) (hm : s.mode = .execBcast p)
    (hi : p.inv s) : ∃ ok, step s = bcastWait ok s := by
  simp only [List.mem_cons, List.not_mem_nil, or_false] at hp
  rcases hp with rfl | rfl | rfl | rfl
  · obtain ⟨-, hs⟩ := hi
    rw [step_bcast_of_start hm rfl hs, bcastStart]
    exact ⟨_, rfl⟩
  · obtain ⟨-, hs, -⟩ := hi
    rw [step_bcast_of_start hm rfl hs, bcastStart]
    exact ⟨_, rfl⟩
  · obtain ⟨-, hr⟩ := hi
    rw [step_bcast_of_read hm rfl hr, bcastRead]
    exact ⟨_, rfl⟩
  · obtain ⟨-, hw⟩ := hi
    rw [step_bcast_of_write hm rfl hw, bcastWrite]
    exact ⟨_, rfl⟩

/-- The bus reset of an expired wait, which flags nothing (R176). -/
theorem step_bcast_reset {s : State} {rs : List ResetAnswer} (hm : s.mode = .execBcast .timeout)
    (h : s.env.resets = .ok :: rs) :
    step s = .next { s with env := { s.env with resets := rs }, draws := s.draws + 1,
                            trace := s.trace ++ [.reset .ok], mode := .execBcast .stop } := by
  rw [step_bcast_end hm rfl, exec, execEol, hm]
  refine (busReset_ok h).trans ?_
  rw [afterReset_eq h]
  rfl

/-! ### The cleanup (R177) -/

theorem startLine_eq (s : State) :
    s.startLine = { s with acc := 0, admin := false, tb := writeSlot s.tb 0 1, mode := .lex .l1 } := rfl

/-- The cleanup of a walk, from its stop on to the next line. -/
theorem reaches_bcast_cleanup {s : State} {rl : List WaitAnswer} (hm : s.mode = .execBcast .stop)
    (h : s.env.releases = .done :: rl) :
    Reaches 2 s
      { s with busHeld := false, acc := 0, admin := false, tb := writeSlot s.tb 0 1, mode := .lex .l1,
               draws := s.draws + 1, env := { s.env with releases := rl },
               trace := s.trace ++ [.stop, .release .done] } := by
  refine reaches_succ (step_bcast_stop hm) (reaches_succ (step_bcast_released rfl h) (reaches_of_eq ?_))
  simp [startLine_eq]

/-- The cleanup of a walk whose release expires: a bus reset, then the next line. -/
theorem reaches_bcast_cleanup_held {s : State} {rl : List WaitAnswer} {rs : List ResetAnswer}
    (hm : s.mode = .execBcast .stop) (h : s.env.releases = .timeout :: rl) (hr : s.env.resets = .ok :: rs) :
    Reaches 3 s
      { s with busHeld := false, acc := 0, admin := false, tb := writeSlot s.tb 0 1, mode := .lex .l1,
               draws := s.draws + 2, env := { s.env with resets := rs, releases := rl },
               trace := s.trace ++ [.stop, .release .timeout, .reset .ok] } := by
  refine reaches_succ (step_bcast_stop hm) (reaches_succ (step_bcast_held rfl h) ?_)
  refine reaches_succ (step_bcast_releaseReset rfl hr) (reaches_of_eq ?_)
  simp [startLine_eq]

/-- Settles O42: an expired wait and its bus reset lead to the cleanup, whose release comes or expires. -/
theorem broadcastTimeoutResetsAndEndsTheWalk : Obligations.BroadcastTimeoutResetsAndEndsTheWalk := by
  refine ⟨fun s rl hm hl => reaches_bcast_cleanup hm hl, fun s p ws rl rs hp hm hi hw hr hl => ?_,
    fun s rl rs hm hl hr => reaches_bcast_cleanup_held hm hl hr⟩
  obtain ⟨ok, hwait⟩ := step_bcast_wait hp hm hi
  have hexpired := hwait.trans (bcastWait_timeout hw)
  have hclean := reaches_bcast_cleanup (s :=
    { s with env := { s.env with waits := ws, resets := rs }, draws := s.draws + 2, mode := .execBcast .stop,
             trace := s.trace ++ [.wait .timeout, .reset .ok] }) rfl hl
  refine reaches_succ hexpired (reaches_succ (step_bcast_reset rfl hr) ?_)
  simpa using hclean

/-! ### No error value (R178) -/

/-- A step of the Broadcast executor is one of its moves, or a failed bus reset, or the fatal entry (R227). -/
theorem step_bcast_cases {s t : State} {p : BcastAt} (hm : s.mode = .execBcast p) (h : step s = .next t) :
    BcastMove s p t ∨ t = s.afterReset.goto (.execBcast .fatal) ∨ t = s.raiseFatal Config.fatalPeriph := by
  cases step_move h with
  | waiting hl => rcases hl.mode_eq with e | e <;> rw [hm] at e <;> cases e
  | received hr => rcases hr.atLine.mode_eq with e | e <;> rw [hm] at e <;> cases e
  | overflow e | newLine e | checkedWalk e | bcastWalk e | admin e | scan e | checked e => rw [hm] at e; cases e
  | bcast e hb => rw [hm] at e; cases e; exact .inl hb
  | resetFailed => exact .inr (.inl (by rw [hm]; rfl))
  | fatal => exact .inr (.inr rfl)

/-- Settles O43: no move writes either register, and neither does a failed bus reset or the fatal entry. -/
theorem broadcastNeverTouchesTheLastError : Obligations.BroadcastNeverTouchesTheLastError := by
  intro s t p hm h
  rcases step_bcast_cases hm h with hb | rfl | rfl
  · exact ⟨hb.lasterr, hb.err⟩
  · exact ⟨by simp, by simp⟩
  · exact ⟨by simp, by simp⟩

end Sys2Proof.Machine

/-! ## Every walk, sweep and command ends (60_exceptions.md R226 to R228)

A text has finitely many bytes. A walk or a sweep lowers, step by step, the triple of the tokens still to run, the
rounds of its inner loop still to go, and the rank of its sub-state, in lexicographic order. -/

namespace Sys2Proof.Machine

/-! ### Runs that end -/

/-- The block comes back to the session loop, or halts. -/
def Ends (s : State) : Prop := ∃ k t, Reaches k s t ∧ Settled t

theorem ends_of_settled {s : State} (h : Settled s) : Ends s := ⟨0, s, reaches_zero s, h⟩

theorem ends_of_line {s : State} (h : s.mode = .lex .l1) : Ends s := ends_of_settled (.inl h)

theorem ends_of_reaches {k : Nat} {s u : State} (h : Reaches k s u) (hu : Ends u) : Ends s := by
  obtain ⟨j, t, hr, ht⟩ := hu
  exact ⟨k + j, t, reaches_trans h hr, ht⟩

theorem ends_of_step {s u : State} (h : step s = .next u) (hu : Ends u) : Ends s :=
  ends_of_reaches (reaches_succ h (reaches_zero u)) hu

/-! ### The commands that send a text (R119 to R128) -/

/-- A text ends where what follows it does. -/
theorem ends_of_text {p : List Byte → Mode} {done : State → Out}
    (hstep : ∀ (s : State) (r : List Byte), s.mode = p r → step s = sendText p r done s)
    (hdone : ∀ u, ∃ v, done u = .next v ∧ Ends v) {r : List Byte} {s : State} (hm : s.mode = p r) : Ends s := by
  cases r with
  | nil =>
    obtain ⟨v, hv, hend⟩ := hdone s
    exact ends_of_step ((hstep s [] hm).trans hv) hend
  | cons b r =>
    obtain ⟨m, hrun⟩ := text_run hstep b r s hm
    obtain ⟨v, hv, hend⟩ := hdone { s.afterText (b :: r) with mode := m }
    exact ends_of_reaches (hrun.trans hv) hend

/-- A command that only sends a text ends (R115). -/
theorem ends_of_say {p : List Byte → AdminAt}
    (hstep : ∀ (s : State) (r : List Byte), s.mode = .adminop (p r) → step s = say p r s) {r : List Byte}
    {s : State} (hm : s.mode = .adminop (p r)) : Ends s :=
  ends_of_text hstep (fun u => ⟨u.backToLine, rfl, ends_of_line rfl⟩) hm

theorem ends_errFatal {s : State} (hm : s.mode = .adminop .errFatal) : Ends s :=
  ends_of_step (step_errFatal hm) (ends_of_settled (.inr ⟨_, rfl⟩))

/-- The bus reset of `^` goes on with the line, or fails and halts (R120, R227). -/
theorem ends_errReset {s : State} (hm : s.mode = .adminop .errReset) : Ends s := by
  obtain ⟨t, ht⟩ := busReset_total (.adminop .errFatal) State.backToLine s
  refine ends_of_step ((step_errReset hm).trans ht) ?_
  rcases busReset_next ht with ⟨-, rfl⟩ | ⟨-, rfl⟩
  · exact ends_of_line rfl
  · exact ends_errFatal rfl

/-- What follows the report of `^` ends, with or without its bus reset (R120). -/
theorem ends_clearError (u : State) : ∃ v, clearError u = .next v ∧ Ends v := by
  refine ⟨_, clearError_eq u, ?_⟩
  by_cases h0 : u.lasterr = 0
  · exact ends_of_line (if_pos h0)
  · exact ends_errReset (if_neg h0)

/-- The step of `Bus.SetSpeed` leads to the reply, or with no reply back to the line (R125 to R127). -/
theorem ends_setSpeed {s : State} {u : SpeedTier} (hm : s.mode = .adminop (.setSpeed u)) : Ends s := by
  refine ends_of_step (step_setSpeed hm) ?_
  rcases beginText_cases (fun r => .adminop (.speedReply u r)) (Config.speedSetReply u) State.backToLine
    (s.setSpeed u) with ⟨-, e⟩ | ⟨-, e⟩ <;> rw [e]
  · exact ends_of_line rfl
  · exact ends_of_say (fun _ _ => step_speedReply) rfl

/-- Every administrative command but the scan ends. -/
theorem ends_admin {s : State} {p : AdminAt} (hm : s.mode = .adminop p) (hp : ∀ q, p ≠ .scan q) : Ends s := by
  cases p with
  | scan q => exact absurd rfl (hp q)
  | speed => exact ends_of_say (fun _ _ => step_speed) hm
  | help => exact ends_of_say (fun _ _ => step_help) hm
  | ident => exact ends_of_say (fun _ _ => step_ident) hm
  | speedReply => exact ends_of_say (fun _ _ => step_speedReply) hm
  | err => exact ends_of_text (fun _ _ => step_err) ends_clearError hm
  | bcast => exact ends_of_text (fun _ _ => step_bcastText) (fun u => ⟨endBcast u, rfl, ends_of_line rfl⟩) hm
  | errReset => exact ends_errReset hm
  | errFatal => exact ends_errFatal hm
  | setSpeed => exact ends_setSpeed hm

/-! ### What a walk or a sweep has left -/

/-- A rank that falls with every call of a probe and of the cleanup (R187 to R192). -/
def ScanAt.rank : ScanAt → Nat
  | .fatal => 1
  | .releaseReset => 2
  | .release => 3
  | .stop => 4
  | .timeout => 5
  | .report r => r.length + 6
  | .addrStatus => 10
  | .addrWait => 11
  | .addr => 12
  | .startStatus => 13
  | .startWait => 14
  | .start => 15

/-- A rank that falls with every call of a token, in a read loop of one byte, and of the cleanup (R165). -/
def CheckedAt.rank : CheckedAt → Nat
  | .fatal => 1
  | .releaseReset => 2
  | .release => 3
  | .stop => 4
  | .timeout => 5
  | .writeWait | .addrStatus => 6
  | .addrWait => 7
  | .addr => 8
  | .startStatus => 9
  | .startWait => 10
  | .token => 11
  | .readReport r => r.length + 6
  | .readData => 11
  | .readStatus => 12
  | .readWait => 13
  | .readCall => 14

@[inherit_doc CheckedAt.rank] def BcastAt.rank : BcastAt → Nat
  | .fatal => 1
  | .releaseReset => 2
  | .release => 3
  | .stop => 4
  | .timeout => 5
  | .writeWait | .addrStatus => 6
  | .addrWait => 7
  | .addr => 8
  | .startWait => 9
  | .token => 10
  | .readReport r => r.length + 6
  | .readData => 11
  | .readWait => 12
  | .readCall => 13

/-- The rank of a walk's or a sweep's sub-state, which is never 0; 0 in every other mode. -/
def Mode.rank : Mode → Nat
  | .execChecked p => p.rank
  | .execBcast p => p.rank
  | .adminop (.scan p) => p.rank
  | _ => 0

/-- The tokens from the one at `I` on (R141). -/
def State.tokensLeft (s : State) : Nat := s.tbLen - s.iReg.toNat

/-- The rounds of an inner loop still to go: the bytes of the count after this one, and the addresses of the sweep from
this one on (R149, R190). -/
def State.roundsLeft (s : State) : Nat := s.nReg.toNat - s.kReg.toNat + (Config.scanCount - s.aReg.toNat)

/-- The walk or sweep of `s` is over at `t`, or goes on there with less left. -/
inductive Lowers (s t : State) : Prop
  | settled : Settled t → Lowers s t
  | token : 0 < t.mode.rank → t.tokensLeft < s.tokensLeft → Lowers s t
  | round : 0 < t.mode.rank → t.tokensLeft = s.tokensLeft → t.roundsLeft < s.roundsLeft → Lowers s t
  | call : 0 < t.mode.rank → t.tokensLeft = s.tokensLeft → t.roundsLeft = s.roundsLeft →
      t.mode.rank < s.mode.rank → Lowers s t

/-- A call that changes none of the loops' registers and leads to a sub-state of lower rank. -/
theorem lowers_goto {s u : State} {m n : Mode} (hm : s.mode = m) (ht : u.tokensLeft = s.tokensLeft)
    (hr : u.roundsLeft = s.roundsLeft) (h : 0 < n.rank ∧ n.rank < m.rank) : Lowers s (u.goto n) :=
  .call h.1 ht hr (hm ▸ h.2)

theorem lowers_of_line {s t : State} (h : t.mode = .lex .l1) : Lowers s t := .settled (.inl h)

/-- `I <- I + 1` at a live token leaves one token less (R141). -/
theorem tokensLeft_advance {s u : State} (hlt : s.iReg.toNat < s.tbLen) (hb : BufferInv s) (htb : u.tb = s.tb)
    (hi : u.iReg = s.iReg + 1) : u.tokensLeft < s.tokensLeft := by
  obtain ⟨-, -, hcap, -⟩ := hb
  rw [State.tokensLeft, State.tokensLeft, tbLen_of_tb_eq htb, hi, iReg_succ_toNat hlt hcap]
  omega

/-! ### The sweep (R187 to R192) -/

theorem Probed.rank_pos {s t : State} (h : Probed s t) : 0 < t.mode.rank := by
  cases h <;> exact Nat.succ_pos _

/-- The next address is one round less (R190). -/
theorem Probed.lowers {s u t : State} (h : Probed u t) (ha : s.aReg.toNat < Config.scanCount)
    (hu : u = { s with aReg := s.aReg + 1, env := u.env, draws := u.draws, trace := u.trace, sReg := u.sReg }) :
    Lowers s t := by
  have hnext : u.aReg.toNat = s.aReg.toNat + 1 := by
    have hone : (1 : Byte).toNat = 1 := rfl
    rw [hu, BitVec.toNat_add, hone]
    rcases scanCount_cases with hc | hc <;> omega
  refine .round h.rank_pos (by rw [h.fields, hu]; rfl) ?_
  have hn : t.nReg = s.nReg := by rw [h.fields, hu]
  have hk : t.kReg = s.kReg := by rw [h.fields, hu]
  have hat : t.aReg = u.aReg := by rw [h.fields]
  rw [State.roundsLeft, State.roundsLeft, hn, hk, hat, hnext]
  omega

theorem ScanMove.lowers {s t : State} {p : ScanAt} (h : ScanMove s p t) (hm : s.mode = .adminop (.scan p))
    (hi : ScanInv s) : Lowers s t := by
  cases h with
  | start | startDone | addrDone | accepted | refused | addr | reset | stop | held =>
    exact lowers_goto hm rfl rfl (by decide)
  | expired hp =>
    refine lowers_goto hm rfl rfl ?_
    simp only [List.mem_cons, List.not_mem_nil, or_false] at hp
    rcases hp with rfl | rfl <;> decide
  | found => exact lowers_goto hm rfl rfl ⟨Nat.succ_pos _, Nat.lt_succ_self 9⟩
  | more => exact lowers_goto hm rfl rfl ⟨Nat.succ_pos _, Nat.lt_succ_self _⟩
  | absent _ hp => exact hp.lowers ((scanInv_probing hm rfl).1 hi) rfl
  | reported hu hp => exact hp.lowers ((scanInv_probing hm rfl).1 hi) (by rw [hu.fields])
  | released | releaseReset => exact lowers_of_line rfl

/-! ### The read loop (R148 to R151, R174) -/

/-- The report of a read byte ranks below the byte's read: it is three bytes, and LF after the last (R149, R150). -/
theorem readReport_rank (last : Bool) (b : Byte) :
    0 < (readOutput last b).length + 6 ∧ (readOutput last b).length + 6 < 11 := by
  cases last <;> simp [readOutput, hexReport]

/-- `k <- k + 1` before the last byte leaves one round less (R149). -/
theorem roundsLeft_again {s t : State} (hl : s.lastByte = false) (hn : t.nReg = s.nReg) (hk : t.kReg = s.kReg + 1)
    (ha : t.aReg = s.aReg) : t.roundsLeft < s.roundsLeft := by
  have hkn : s.kReg.toNat < s.nReg.toNat := by simpa [State.lastByte] using hl
  have hk' : t.kReg.toNat = s.kReg.toNat + 1 := by
    have := s.nReg.isLt
    have hone : (1 : Word).toNat = 1 := rfl
    rw [hk, BitVec.toNat_add, hone, Nat.mod_eq_of_lt (by omega)]
  rw [State.roundsLeft, State.roundsLeft, hn, hk', ha]
  omega

/-! ### The checked executor (R143 to R160) -/

theorem CWalked.rank_pos {s t : State} (h : CWalked s t) : 0 < t.mode.rank := by
  cases h <;> exact Nat.succ_pos _

/-- A fetch with fewer tokens left, wherever it leads. -/
theorem CWalked.lowers {s u t : State} (h : CWalked u t) (hu : u.tokensLeft < s.tokensLeft) : Lowers s t :=
  .token h.rank_pos (by rw [h.fields]; exact hu)

theorem CheckedMove.lowers {s t : State} {p : CheckedAt} (h : CheckedMove s p t) (hm : s.mode = .execChecked p)
    (hb : BufferInv s) (hp : p.inv s) : Lowers s t := by
  have hlive : p.inToken = true → s.iReg.toNat < s.tbLen := fun hin => (tokenInv_of_checkedInToken hp hin).iReg_lt
  cases h with
  | startDone | accepted | refused | addr | addrDone | nacked | nack | ack | readDone | good | bad | reset | stop |
      held => exact lowers_goto hm rfl rfl (by decide)
  | start hin hne ht =>
    obtain rfl := CheckedAt.eq_token_of_start hp hin hne ht
    exact lowers_goto hm rfl rfl (by decide)
  | write hin hne ht hr =>
    obtain rfl := CheckedAt.eq_token_of_write hp hin hne ht hr
    exact lowers_goto hm rfl rfl (by decide)
  | count hin hrep hne ht hr => exact absurd hp (CheckedAt.not_inv_count hin hrep hne ht hr)
  | zero hin hrep hne hr h0 => exact absurd hp (CheckedAt.not_inv_count hin hrep hne (lt_startBase_of_zero h0) hr)
  | expired hw =>
    refine lowers_goto hm rfl rfl ?_
    simp only [List.mem_cons, List.not_mem_nil, or_false] at hw
    rcases hw with rfl | rfl | rfl | rfl <;> decide
  | data => exact lowers_goto hm rfl rfl (readReport_rank _ _)
  | more => exact lowers_goto hm rfl rfl ⟨Nat.succ_pos _, Nat.lt_succ_self _⟩
  | again hu hl => rw [hu.fields]; exact .round (Nat.succ_pos _) rfl (roundsLeft_again hl rfl rfl rfl)
  | addressed _ hw | written _ hw => exact hw.lowers (tokensLeft_advance (hlive rfl) hb rfl rfl)
  | readEnd hu _ hw => exact hw.lowers (tokensLeft_advance (hlive rfl) hb hu.tb rfl)
  | released | releaseReset => exact lowers_of_line rfl

/-! ### The Broadcast executor (R172 to R177) -/

theorem Walked.rank_pos {s t : State} (h : Walked (.execBcast .token) (.execBcast .stop) s t) : 0 < t.mode.rank := by
  cases h <;> exact Nat.succ_pos _

theorem BWalked.rank_pos {s t : State} (h : BWalked s t) : 0 < t.mode.rank := by
  cases h with
  | zero _ _ _ hw => exact hw.rank_pos
  | _ => exact Nat.succ_pos _

/-- A fetch leaves no more tokens than there were: past a count of 0 one less (R174). -/
theorem BWalked.tokensLeft_le {s t : State} (h : BWalked s t) (hb : BufferInv s) : t.tokensLeft ≤ s.tokensLeft := by
  cases h with
  | zero _ htok _ hw =>
    rw [hw.fields]
    obtain ⟨-, hlt, -⟩ := token_eq_some htok
    exact Nat.le_of_lt (tokensLeft_advance hlt hb rfl rfl)
  | _ => exact le_rfl

@[inherit_doc CWalked.lowers]
theorem BWalked.lowers {s u t : State} (h : BWalked u t) (hb : BufferInv u) (hu : u.tokensLeft < s.tokensLeft) :
    Lowers s t :=
  .token h.rank_pos ((h.tokensLeft_le hb).trans_lt hu)

theorem BcastMove.lowers {s t : State} {p : BcastAt} (h : BcastMove s p t) (hm : s.mode = .execBcast p)
    (hb : BufferInv s) (hp : p.inv s) : Lowers s t := by
  have hlive : p.inToken = true → s.iReg.toNat < s.tbLen := fun hin => (tokenInv_of_bcastInToken hp hin).iReg_lt
  cases h with
  | startDone | addr | addrDone | nack | ack | readDone | reset | stop | held =>
    exact lowers_goto hm rfl rfl (by decide)
  | start hin hne ht =>
    obtain rfl := BcastAt.eq_token_of_start hp hin hne ht
    exact lowers_goto hm rfl rfl (by decide)
  | write hin hne ht hr =>
    obtain rfl := BcastAt.eq_token_of_write hp hin hne ht hr
    exact lowers_goto hm rfl rfl (by decide)
  | count hin hrep hne ht hr => exact absurd hp (BcastAt.not_inv_count hin hrep hne ht hr)
  | zero hin hrep hne hr h0 => exact absurd hp (BcastAt.not_inv_count hin hrep hne (lt_startBase_of_zero h0) hr)
  | expired hw =>
    refine lowers_goto hm rfl rfl ?_
    simp only [List.mem_cons, List.not_mem_nil, or_false] at hw
    rcases hw with rfl | rfl | rfl | rfl <;> decide
  | data => exact lowers_goto hm rfl rfl (readReport_rank _ _)
  | more => exact lowers_goto hm rfl rfl ⟨Nat.succ_pos _, Nat.lt_succ_self _⟩
  | again hu hl => rw [hu.fields]; exact .round (Nat.succ_pos _) rfl (roundsLeft_again hl rfl rfl rfl)
  | addressed hw | written _ hw => exact hw.lowers (hb.of_tb_eq rfl) (tokensLeft_advance (hlive rfl) hb rfl rfl)
  | readEnd hu _ hw => exact hw.lowers (hb.of_tb_eq hu.tb) (tokensLeft_advance (hlive rfl) hb hu.tb rfl)
  | released | releaseReset => exact lowers_of_line rfl

/-! ### Every walk and every sweep ends -/

/-- A failed bus reset leads a walk or a sweep to its fatal entry (R227). -/
theorem rank_failed {m : Mode} (h : m ∈ resetModes) (hm : 0 < m.rank) :
    0 < m.failed.rank ∧ m.failed.rank < m.rank := by
  simp only [resetModes, List.mem_cons, List.not_mem_nil, or_false] at h
  rcases h with rfl | rfl | rfl | rfl | rfl | rfl | rfl
  case inr.inr.inr.inr.inr.inr => cases hm
  all_goals decide

theorem rank_lex (p : LexAt) : ¬ 0 < (Mode.lex p).rank := Nat.lt_irrefl 0

theorem rank_admin {p : AdminAt} (hp : ∀ q, p ≠ .scan q) : ¬ 0 < (Mode.adminop p).rank := by
  cases p with
  | scan q => exact absurd rfl (hp q)
  | _ => exact Nat.lt_irrefl 0

/-- Under the invariants a step of a walk or of a sweep ends it or leaves less of it. -/
theorem Move.lowers {s t : State} (h : Move s t) (hb : BufferInv s) (hw : WalkInv s) (hs : ScanInv s)
    (hr : 0 < s.mode.rank) : Lowers s t := by
  cases h with
  | waiting hl => rcases hl.mode_eq with hm | hm <;> exact absurd (hm ▸ hr) (rank_lex _)
  | received hrx => rcases hrx.atLine.mode_eq with hm | hm <;> exact absurd (hm ▸ hr) (rank_lex _)
  | overflow hm | newLine hm | checkedWalk hm | bcastWalk hm => exact absurd (hm ▸ hr) (rank_lex _)
  | admin hm hp => exact absurd (hm ▸ hr) (rank_admin hp)
  | scan hm h => exact h.lowers hm hs
  | checked hm h => exact h.lowers hm hb (walkInv_of_checked hm hw).2
  | bcast hm h => exact h.lowers hm hb (walkInv_of_bcast hm hw).2
  | resetFailed hm => exact lowers_goto rfl rfl rfl (rank_failed hm hr)
  | fatal => exact .settled (.inr ⟨_, rfl⟩)

/-- A state of the invariants that has not halted steps to one of them. -/
theorem step_of_invariants {s : State} (hb : BufferInv s) (hw : WalkInv s) (hs : ScanInv s)
    (hm : ∀ c, s.mode ≠ .halted c) :
    ∃ t, step s = .next t ∧ Move s t ∧ BufferInv t ∧ WalkInv t ∧ ScanInv t := by
  rcases onlyTheHaltStopsAStep s hb hw with ⟨t, ht⟩ | ⟨c, hc, -⟩
  · have hmove := step_move ht
    exact ⟨t, ht, hmove, hmove.bufferInv hb, hmove.walkInv hb hw, hmove.scanInv hs⟩
  · exact absurd hc (hm c)

/-- Every walk and every sweep ends: its steps lower what it has left (R226, R254). -/
theorem ends_of_rank_pos {s : State} (hb : BufferInv s) (hw : WalkInv s) (hs : ScanInv s) (hr : 0 < s.mode.rank) :
    Ends s := by
  obtain ⟨t, ht, hmove, hb', hw', hs'⟩ := step_of_invariants hb hw hs fun c hc => by rw [hc] at hr; cases hr
  refine ends_of_step ht ?_
  cases hmove.lowers hb hw hs hr with
  | settled h => exact ends_of_settled h
  | token hr' htok => exact ends_of_rank_pos hb' hw' hs' hr'
  | round hr' htok hround => exact ends_of_rank_pos hb' hw' hs' hr'
  | call hr' htok hround hrank => exact ends_of_rank_pos hb' hw' hs' hr'
termination_by (s.tokensLeft, s.roundsLeft, s.mode.rank)
decreasing_by
  · exact .left _ _ htok
  · rw [htok]; exact .right _ (.left _ _ hround)
  · rw [htok, hround]; exact .right _ (.right _ hrank)

/-! ### The session loop (R90, R106) -/

/-- The dispatch starts a line or a walk (R106). -/
theorem Move.of_dispatch {s t : State} (h : Move s t) (hm : s.mode = .lex .ld) :
    t.mode = .lex .l1 ∨ 0 < t.mode.rank := by
  cases h with
  | newLine => exact .inl rfl
  | checkedWalk _ _ _ hw => exact .inr hw.rank_pos
  | bcastWalk _ _ _ hw => exact .inr hw.rank_pos
  | waiting hl => rcases hl.mode_eq with e | e <;> rw [hm] at e <;> cases e
  | received hr => rcases hr.atLine.mode_eq with e | e <;> rw [hm] at e <;> cases e
  | overflow e | admin e | scan e | checked e | bcast e => rw [hm] at e; cases e
  | resetFailed e | fatal e => rw [hm] at e; simp [resetModes, fatalModes, scanMode] at e

/-- The first line start is not repeated (R90, R251). -/
theorem Move.mode_ne_l0 {s t : State} (h : Move s t) (hm : s.mode = .lex .l0) : t.mode ≠ .lex .l0 := by
  cases h with
  | waiting hl => rw [hl.mode]; exact nofun
  | received hr hl =>
    rcases hl.mode with hq | hq | hq | hq | ⟨q, hq, -⟩ <;> rw [hq]
    · rw [hr.mode]; exact nofun
    all_goals exact nofun
  | overflow e | newLine e | checkedWalk e | bcastWalk e | admin e | scan e | checked e | bcast e =>
    rw [hm] at e; cases e
  | resetFailed e | fatal e => rw [hm] at e; simp [resetModes, fatalModes, scanMode] at e

/-- After the first line start, by the mode: the session loop, a walk or a sweep, another command, or the halt. -/
theorem ends_of_mode_ne_l0 {s : State} (hb : BufferInv s) (hw : WalkInv s) (hs : ScanInv s) (h0 : s.mode ≠ .lex .l0) :
    Ends s := by
  cases hm : s.mode with
  | halted c => exact ends_of_settled (.inr ⟨c, hm⟩)
  | execChecked p => exact ends_of_rank_pos hb hw hs (hm ▸ by cases p <;> exact Nat.succ_pos _)
  | execBcast p => exact ends_of_rank_pos hb hw hs (hm ▸ by cases p <;> exact Nat.succ_pos _)
  | adminop p =>
    cases p with
    | scan q => exact ends_of_rank_pos hb hw hs (hm ▸ by cases q <;> exact Nat.succ_pos _)
    | _ => exact ends_admin hm nofun
  | lex p =>
    cases p with
    | l0 => exact absurd hm h0
    | l1 => exact ends_of_line hm
    | ld =>
      obtain ⟨t, ht, hmove, hb', hw', hs'⟩ := step_of_invariants hb hw hs (by rw [hm]; exact nofun)
      refine ends_of_step ht ?_
      rcases hmove.of_dispatch hm with hl | hr
      · exact ends_of_line hl
      · exact ends_of_rank_pos hb' hw' hs' hr

/-- Settles O60: a text is finite, a walk or a sweep lowers what it has left, and the first line start is one step. -/
theorem everyCommandReturnsOrHalts : Obligations.EveryCommandReturnsOrHalts := by
  intro s hb hw hs
  by_cases h0 : s.mode = .lex .l0
  · obtain ⟨t, ht, hmove, hb', hw', hs'⟩ := step_of_invariants hb hw hs (by rw [h0]; exact nofun)
    exact ends_of_step ht (ends_of_mode_ne_l0 hb' hw' hs' (hmove.mode_ne_l0 h0))
  · exact ends_of_mode_ne_l0 hb hw hs h0

end Sys2Proof.Machine

/-! ## The Broadcast executor: its read-counts and its bytes to write (43_exec_broadcast.md R174, R175) -/

namespace Sys2Proof.Machine

/-! ### Where a walk outside a read phase goes on (R171) -/

/-- A fetch looks at how the executor enters the fetched token alone. -/
theorem walkFetch_congr {enter enter' : State → Out} {stop : Mode} {s : State}
    (h : ∀ w, enter { s with tReg := w } = enter' { s with tReg := w }) :
    walkFetch enter stop s = walkFetch enter' stop s := by
  unfold walkFetch
  split
  · rfl
  · split
    · exact h _
    · rfl

/-- Outside a read phase no count is tested: the next token stands before its first call (R171, R174). -/
theorem bcastAdvance_eq_stand {s : State} (hr : s.rp = false) : bcastAdvance s = bcastStand s :=
  walkFetch_congr fun _ => bcastEnter_stand (.inl hr)

/-- Such a walk stands before the next token, or at its cleanup (R171). -/
theorem GoesOn.atNextToken {token stop : Mode} {s t : State} (h : GoesOn token stop s t) (hgo : WalkGoesOn s) :
    AtNextToken token stop s t ∧ t = { s with iReg := t.iReg, tReg := t.tReg, mode := t.mode } := by
  obtain ⟨hle, hcap, htok⟩ := hgo
  obtain ⟨hend, hnext⟩ := h
  have hi : (s.iReg + 1).toNat = s.iReg.toNat + 1 := iReg_succ_toNat (by omega) hcap.le
  rcases hle.eq_or_lt with he | hlt
  · obtain rfl := hend he
    exact ⟨⟨hi, fun _ => ⟨rfl, rfl⟩, fun hlt => absurd he hlt.ne⟩, rfl⟩
  · obtain ⟨w, hw⟩ := htok hlt
    obtain rfl := hnext w hlt hw
    exact ⟨⟨hi, fun he => absurd he hlt.ne, fun _ => ⟨rfl, hw⟩⟩, rfl⟩

/-- Where the next token stands before its first call, a walk that can go on does (R171, R174). -/
theorem bcastStand_atNextToken {s : State} (hgo : WalkGoesOn s) :
    ∃ t, bcastStand s = .next t ∧ AtNextToken (.execBcast .token) (.execBcast .stop) s t ∧
      t = { s with iReg := t.iReg, tReg := t.tReg, mode := t.mode } := by
  obtain ⟨t, ht, hnext⟩ := bcastStand_goesOn hgo
  exact ⟨t, ht, hnext.atNextToken hgo⟩

@[inherit_doc bcastStand_atNextToken]
theorem bcastAdvance_atNextToken {s : State} (hr : s.rp = false) (hgo : WalkGoesOn s) :
    ∃ t, bcastAdvance s = .next t ∧ AtNextToken (.execBcast .token) (.execBcast .stop) s t ∧
      t = { s with iReg := t.iReg, tReg := t.tReg, mode := t.mode } :=
  bcastAdvance_eq_stand hr ▸ bcastStand_atNextToken hgo

/-! ### A byte to write (R175) -/

theorem exec_dataWrite_bcast {s : State} {p : BcastAt} {v : Word} (hm : s.mode = .execBcast p) :
    exec (.dataWrite v) s = bcastWrite v p s := by
  rw [exec, execDataWrite, hm]

theorem bcastWrite_token (v : Word) (s : State) :
    bcastWrite v .token s =
      .next { s with trace := s.trace ++ [.write (v.setWidth 8)], mode := .execBcast .writeWait } := rfl

/-- Settles O41: the write, then its wait, whose step goes on outside a read phase. -/
theorem broadcastDataTokenWritesItsLowByte : Obligations.BroadcastDataTokenWritesItsLowByte := by
  intro s v ws hm hd hgo hw
  obtain ⟨⟨hl, hrp⟩, -⟩ := writeInv_of_decodeWord hd
  obtain ⟨t, ht, hat, hframe⟩ := bcastAdvance_atNextToken (s :=
    { s with draws := s.draws + 1, env := { s.env with waits := ws }, mode := .execBcast .writeWait,
             trace := s.trace ++ [.write (v.setWidth 8), .wait .done] }) hrp hgo
  refine ⟨_, t, (exec_dataWrite_bcast hm).trans (bcastWrite_token v s), rfl, ?_, hat, hframe⟩
  refine reaches_succ (Eq.trans (step_bcast_writeWait rfl ⟨hl, hrp⟩ hw) ?_) (reaches_zero t)
  rw [← ht]
  simp

/-! ### One byte of a count (R174) -/

theorem exec_readCount_bcast {s : State} {p : BcastAt} {n : Word} (hm : s.mode = .execBcast p) :
    exec (.readCount n) s = bcastRead n p s := by
  rw [exec, execReadCount, hm]

/-- The calls of a read byte in broadcast mode: no status is read (R174). -/
def bcastByteCalls (last : Bool) (d : Byte) : List Event := [if last then .nack else .ack, .wait .done, .read d]

/-- The calls of a byte and its report are the events of R174. -/
theorem bcastByteEvents_eq {last : Bool} {d : Byte} {es : List Event} (h : SendEvents (readOutput last d) es) :
    (bcastByteCalls last d ++ es).map Event.plain = byteEvents false last d := by
  rw [List.map_append, h.plain]
  cases last <;> rfl

section BcastByte

variable {s : State} {d : Byte} {ws : List WaitAnswer} {dd : List Byte}

/-- ACK before the last byte, NACK on it (R174). -/
theorem step_bcast_readCall (hm : s.mode = .execBcast .readCall) (hi : ReadInv s) :
    step s =
      .next { s with trace := s.trace ++ [if s.lastByte then .nack else .ack], mode := .execBcast .readWait } := by
  cases hl : s.lastByte with
  | true => exact step_bcast_nack hm hi hl
  | false => exact step_bcast_ack hm hi hl

/-- The state once the byte `d` has been read and its report is next, `ws` and `dd` being the answers that are left. -/
def State.atBcastReport (s : State) (d : Byte) (ws : List WaitAnswer) (dd : List Byte) : State :=
  { s with dbReg := d, env := { s.env with waits := ws, datas := dd }, draws := s.draws + 2,
           trace := s.trace ++ bcastByteCalls s.lastByte d,
           mode := .execBcast (.readReport (readOutput s.lastByte d)) }

/-- Three calls lead to the report of a byte. -/
theorem reaches_atBcastReport (hm : s.mode = .execBcast .readCall) (hi : ReadInv s)
    (hw : s.env.waits = .done :: ws) (hd : s.env.datas = d :: dd) : Reaches 3 s (s.atBcastReport d ws dd) := by
  refine reaches_succ (step_bcast_readCall hm hi) (reaches_succ (step_bcast_readWait rfl hi hw) ?_)
  refine reaches_succ (step_bcast_readData rfl hi hd) (reaches_of_eq ?_)
  simp [State.atBcastReport, bcastByteCalls, State.lastByte]

/-- The state once the byte `d` has been read and reported, `ws` and `dd` being the answers that are left. -/
def State.afterBcastByte (s : State) (d : Byte) (ws : List WaitAnswer) (dd : List Byte) : State :=
  (s.atBcastReport d ws dd).afterText (readOutput s.lastByte d)

/-- What a byte read and reported changes, and the events that it records. -/
theorem afterBcastByte_eq (s : State) (d : Byte) (ws : List WaitAnswer) (dd : List Byte) :
    ∃ es, es.map Event.plain = byteEvents false s.lastByte d ∧
      s.afterBcastByte d ws dd =
        { s with dbReg := d,
                 env := { s.env with waits := ws, datas := dd,
                                     sends := s.env.sends.drop (readOutput s.lastByte d).length },
                 draws := s.draws + 2 + (readOutput s.lastByte d).length, trace := s.trace ++ es,
                 mode := .execBcast (.readReport (readOutput s.lastByte d)) } := by
  obtain ⟨es, hes, he⟩ := State.afterText_eq (s.atBcastReport d ws dd) (readOutput s.lastByte d)
  refine ⟨bcastByteCalls s.lastByte d ++ es, bcastByteEvents_eq hes, he.trans ?_⟩
  rw [← List.append_assoc]
  rfl

theorem afterBcastByte_lastByte (s : State) (d : Byte) (ws : List WaitAnswer) (dd : List Byte) :
    (s.afterBcastByte d ws dd).lastByte = s.lastByte := by
  obtain ⟨es, -, he⟩ := afterBcastByte_eq s d ws dd
  rw [he]
  rfl

/-- What follows the report of a byte: the next byte, or after the last one the end of the read phase and the walk's
advance (R174). -/
def bcastReported (s : State) : Out :=
  if s.lastByte then bcastAdvance { s with rp := false }
  else .next { s with kReg := s.kReg + 1, mode := .execBcast .readCall }

/-- It leaves the report's sub-state behind. -/
theorem bcastReported_goto (s : State) (m : Mode) : bcastReported (s.goto m) = bcastReported s := rfl

theorem bcastReported_last (h : s.lastByte = true) : bcastReported s = bcastAdvance { s with rp := false } := if_pos h

theorem bcastReported_more (h : s.lastByte = false) :
    bcastReported s = .next { s with kReg := s.kReg + 1, mode := .execBcast .readCall } :=
  if_neg (by simp [h])

theorem step_bcast_readReport {r : List Byte} (hm : s.mode = .execBcast (.readReport r)) (hi : ReadInv s) :
    step s = sendText (fun r => .execBcast (.readReport r)) r bcastReported s :=
  step_bcast_of_read hm rfl hi

/-- The report of a read byte takes one step a character, and then comes what follows it (R165, R203). -/
theorem reaches_bcastReported {t : State} {txt : List Byte} (hn : txt ≠ []) (s : State)
    (hm : s.mode = .execBcast (.readReport txt)) (hi : ReadInv s) (hdone : bcastReported (s.afterText txt) = .next t) :
    Reaches txt.length s t := by
  induction txt generalizing s with
  | nil => exact absurd rfl hn
  | cons b r ih =>
    cases r with
    | nil => exact reaches_succ ((step_bcast_readReport hm hi).trans hdone) (reaches_zero t)
    | cons c r =>
      refine reaches_succ (step_bcast_more hm hi) (ih (List.cons_ne_nil c r) _ rfl hi ?_)
      rw [afterText_goto]
      exact (bcastReported_goto _ _).trans hdone

/-- One byte of the read loop: three calls, its report, and what follows that. -/
theorem reaches_afterBcastByte {t : State} (hm : s.mode = .execBcast .readCall) (hi : ReadInv s)
    (hw : s.env.waits = .done :: ws) (hd : s.env.datas = d :: dd)
    (ht : bcastReported (s.afterBcastByte d ws dd) = .next t) :
    Reaches (3 + (readOutput s.lastByte d).length) s t :=
  reaches_trans (reaches_atBcastReport hm hi hw hd) (reaches_bcastReported (readOutput_ne_nil _ _) _ rfl hi ht)

end BcastByte

/-! ### The bytes of a count (R174) -/

/-- The state once the byte `d` has been read and reported, and the call of the next byte is next. -/
def State.atNextBcastByte (s : State) (d : Byte) (ws : List WaitAnswer) (dd : List Byte) : State :=
  { s.afterBcastByte d ws dd with kReg := (s.afterBcastByte d ws dd).kReg + 1, mode := .execBcast .readCall }

/-- `t` is where the walk goes once the read loop of `s` has reported its remaining bytes `ds`. -/
structure BcastBytesRead (ds : List Byte) (s t : State) : Prop where
  reaches : Reaches (6 * ds.length + 1) s t
  next : AtNextToken (.execBcast .token) (.execBcast .stop) s t
  events : ∃ es, t.trace = s.trace ++ es ∧ es.map Event.plain = readEvents false ds
  frame : t = { s with kReg := s.nReg, dbReg := t.dbReg, rp := false, iReg := t.iReg, tReg := t.tReg, mode := t.mode,
                       draws := t.draws, env := t.env, trace := t.trace }

section BcastBytesRead

variable {s t : State} {d e : Byte} {ds : List Byte} {ws : List WaitAnswer} {dd : List Byte}

/-- The last byte of a count. -/
theorem BcastBytesRead.last (hm : s.mode = .execBcast .readCall) (hi : ReadInv s) (hgo : WalkGoesOn s)
    (hk : s.kReg = s.nReg) (hw : s.env.waits = .done :: ws) (hd : s.env.datas = d :: dd) :
    ∃ t, BcastBytesRead [d] s t := by
  have hl : s.lastByte = true := lastByte_of_eq (congrArg BitVec.toNat hk)
  have hlast := (afterBcastByte_lastByte s d ws dd).trans hl
  obtain ⟨es, hes, he⟩ := afterBcastByte_eq s d ws dd
  obtain ⟨t, ht, hat, hframe⟩ := bcastAdvance_atNextToken (s := { s.afterBcastByte d ws dd with rp := false }) rfl
    (by rw [he]; exact hgo)
  have hrun := reaches_afterBcastByte hm hi hw hd ((bcastReported_last hlast).trans ht)
  rw [hl, readOutput_length] at hrun
  rw [hl] at hes
  rw [he] at hat hframe
  refine ⟨t, hrun, hat, ⟨es, by rw [hframe], hes⟩, ?_⟩
  rw [hframe, ← hk]

/-- A byte before those that follow it. -/
theorem BcastBytesRead.cons (hm : s.mode = .execBcast .readCall) (hi : ReadInv s) (hl : s.lastByte = false)
    (hw : s.env.waits = .done :: ws) (hd : s.env.datas = d :: dd)
    (h : BcastBytesRead (e :: ds) (s.atNextBcastByte d ws dd) t) :
    BcastBytesRead (d :: e :: ds) s t := by
  have hbyte := reaches_afterBcastByte hm hi hw hd (bcastReported_more ((afterBcastByte_lastByte s d ws dd).trans hl))
  rw [hl, readOutput_length] at hbyte
  have hrun := reaches_trans hbyte h.reaches
  obtain ⟨es, hes, he⟩ := afterBcastByte_eq s d ws dd
  rw [hl] at hes
  rw [State.atNextBcastByte, he] at h
  obtain ⟨es', ht, hes'⟩ := h.events
  have hsteps : 6 * (d :: e :: ds).length + 1 = 6 + (6 * (e :: ds).length + 1) := by
    rw [List.length_cons]; omega
  refine ⟨hsteps ▸ hrun, h.next, ⟨es ++ es', ?_, ?_⟩, h.frame⟩
  · rw [ht, List.append_assoc]
  · rw [List.map_append, hes, hes']
    rfl

end BcastBytesRead

/-- From the byte at `k` on, a count whose waits are done is read to its end (R174). -/
theorem bcastBytesRead_exists {ws : List WaitAnswer} {dd : List Byte} (ds : List Byte) (hne : ds ≠ []) (s : State)
    (hm : s.mode = .execBcast .readCall) (hi : ReadInv s) (hgo : WalkGoesOn s)
    (hk : s.kReg.toNat + ds.length = s.nReg.toNat + 1) (hw : s.env.waits = List.replicate ds.length .done ++ ws)
    (hd : s.env.datas = ds ++ dd) : ∃ t, BcastBytesRead ds s t := by
  induction ds generalizing s with
  | nil => exact absurd rfl hne
  | cons d ds ih =>
    cases ds with
    | nil => exact BcastBytesRead.last hm hi hgo (BitVec.eq_of_toNat_eq (Nat.succ.inj hk)) hw hd
    | cons e ds =>
      rw [List.length_cons, List.length_cons] at hk
      have hl : s.lastByte = false := lastByte_of_lt (by omega)
      have hone : (1 : Word).toNat = 1 := rfl
      have hnext : (s.kReg + 1).toNat + (ds.length + 1) = s.nReg.toNat + 1 := by
        rw [BitVec.toNat_add, hone]
        omega
      obtain ⟨es, -, he⟩ := afterBcastByte_eq s d (List.replicate (ds.length + 1) .done ++ ws) (e :: ds ++ dd)
      have hrest : ∃ t, BcastBytesRead (e :: ds)
          (s.atNextBcastByte d (List.replicate (ds.length + 1) .done ++ ws) (e :: ds ++ dd)) t := by
        rw [State.atNextBcastByte, he]
        exact ih (List.cons_ne_nil e ds) _ rfl (hi.next hl rfl rfl rfl rfl) hgo hnext rfl rfl
      obtain ⟨t, ht⟩ := hrest
      exact ⟨t, .cons hm hi hl hw hd ht⟩

/-! ### The whole count (R174) -/

/-- A read-count from its first byte. -/
theorem bcastRead_first {s : State} {ds dd : List Byte} {ws : List WaitAnswer} (hm : s.mode = .execBcast .readCall)
    (hi : ReadInv s) (hk : s.kReg = 1) (hgo : WalkGoesOn s) (hlen : ds.length = s.nReg.toNat)
    (hw : s.env.waits = List.replicate s.nReg.toNat .done ++ ws) (hd : s.env.datas = ds ++ dd) :
    ds ≠ [] ∧ ∃ t, BcastBytesRead ds s t := by
  obtain ⟨-, -, -, h1, hkn⟩ := id hi
  have hne : ds ≠ [] := List.ne_nil_of_length_pos (hlen ▸ h1.trans hkn)
  have hone : s.kReg.toNat = 1 := by rw [hk]; rfl
  exact ⟨hne, bcastBytesRead_exists ds hne s hm hi hgo (by omega) (hlen ▸ hw) hd⟩

/-- The count test, which passes over a count of 0 (R174). -/
theorem bcastCount_eq (n : Word) (s : State) :
    bcastCount n s =
      if n = 0 then bcastStand { s with nReg := n, rp := false }
      else .next { s with nReg := n, kReg := 1, mode := .execBcast .readCall } := rfl

/-- Settles O40: the bytes by `bcastRead_first`, the first of whose steps is the token's; the count test by
`bcastCount_eq`. -/
theorem broadcastReadCountReportsEveryByte : Obligations.BroadcastReadCountReportsEveryByte := by
  refine ⟨fun s n ds dd ws hm hi htn hk hgo hlen hw hd => ?_, fun s n hm => ⟨fun hn => ?_, fun hn hgo => ?_⟩⟩
  · obtain ⟨-, -, hnt, h1, hkn⟩ := id hi
    obtain rfl : s.nReg = n := hnt.trans htn
    obtain ⟨hne, t, ht⟩ := bcastRead_first hm hi hk hgo hlen hw hd
    obtain ⟨t1, hstep, hrun⟩ := reaches_succ_inv ht.reaches
    obtain ⟨es, htrace, hes⟩ := ht.events
    have hexec : exec (.readCount s.nReg) s = step s := by
      rw [exec_readCount_bcast hm, step_bcast_of_read hm rfl hi, htn]
    have hcall := (step_bcast_readCall hm hi).symm.trans hstep
    cases hcall
    refine ⟨_, t, hexec.trans hstep, ?_, hlen ▸ hrun, ht.next, output_of_read hne htrace hes, ⟨es, htrace, hes⟩,
      ht.frame⟩
    rw [lastByte_first rfl hk (h1.trans hkn)]
    simp
  · rw [exec_readCount_bcast hm]
    exact (bcastCount_eq n s).trans (if_neg hn)
  · obtain ⟨t, ht, hat, hframe⟩ := bcastStand_atNextToken (s := { s with nReg := n, rp := false }) hgo
    refine ⟨t, ?_, hat, hn ▸ hframe⟩
    rw [exec_readCount_bcast hm]
    exact (bcastCount_eq n s).trans ((if_pos hn).trans ht)

end Sys2Proof.Machine

/-! ## The error bits that stay 0, the causes of a halt, and single steps (R81, R96, R103, R200, R223, R227) -/

namespace Sys2Proof.Machine

/-! ### The error bits that no rule sets (R81) -/

/-- The arbitration-lost and the reserved bit of an error result are 0. -/
def ReservedClear (e : ErrMask) : Prop :=
  e.getLsbD (Config.errBit .al).val = false ∧ e.getLsbD (Config.errBit .rsv).val = false

theorem reservedBitsInv_iff {s : State} : ReservedBitsInv s ↔ ReservedClear s.err ∧ ReservedClear s.lasterr := by
  rw [ReservedBitsInv, ReservedClear, ReservedClear, and_assoc]

theorem reservedClear_zero : ReservedClear 0 := ⟨BitVec.getLsbD_zero, BitVec.getLsbD_zero⟩

theorem ReservedClear.or {e f : ErrMask} (he : ReservedClear e) (hf : ReservedClear f) : ReservedClear (e ||| f) := by
  obtain ⟨hea, her⟩ := he
  obtain ⟨hfa, hfr⟩ := hf
  exact ⟨by rw [BitVec.getLsbD_or, hea, hfa, Bool.or_false], by rw [BitVec.getLsbD_or, her, hfr, Bool.or_false]⟩

/-- A kind's mask leaves the bit of another kind 0 (R80). -/
theorem errMask_getLsbD_of_ne {k l : ErrKind} (h : l ≠ k) : (errMask k).getLsbD (Config.errBit l).val = false := by
  rw [errMask_getLsbD, decide_eq_false_iff_not]
  exact fun he => h (errBit_injective (Fin.ext he))

/-- No abort flags one of the two (R155). -/
theorem reservedClear_errMask {k : ErrKind} (h : k ∈ abortKinds) : ReservedClear (errMask k) := by
  obtain ⟨hal, hrsv⟩ : ErrKind.al ≠ k ∧ ErrKind.rsv ≠ k := by revert k; decide
  exact ⟨errMask_getLsbD_of_ne hal, errMask_getLsbD_of_ne hrsv⟩

/-- What a step does to `ERR`: nothing, the flag of one abort, or a walk's or a sweep's entry (R29, R154, R186). -/
inductive ErrStep (e : ErrMask) : ErrMask → Prop
  | keeps : ErrStep e e
  | flags {k} : k ∈ abortKinds → ErrStep e (e ||| errMask k)
  | clears : ErrStep e 0

theorem ErrStep.reservedClear {e f : ErrMask} (h : ErrStep e f) (he : ReservedClear e) : ReservedClear f := by
  cases h with
  | keeps => exact he
  | flags hk => exact he.or (reservedClear_errMask hk)
  | clears => exact reservedClear_zero

/-- The checked executor's fetch flags NBR at a count of 0 alone (R148). -/
theorem CWalked.errStep {s t : State} (h : CWalked s t) : ErrStep s.err t.err := by
  cases h with
  | zero => exact .flags (by decide)
  | _ => exact .keeps

/-- An abort flags its kind, and an expired wait or release BRO; no other step of a checked walk does (R154, R155). -/
theorem CheckedMove.errStep {s t : State} {p : CheckedAt} (h : CheckedMove s p t) : ErrStep s.err t.err := by
  cases h with
  | refused | nacked | zero | reset | releaseReset => exact .flags (by decide)
  | bad => exact .flags (readFailure_mem _)
  | addressed _ hw | written _ hw => exact hw.errStep
  | readEnd hu _ hw => rw [hu.fields] at hw; exact hw.errStep
  | again hu _ => rw [hu.fields]; exact .keeps
  | _ => exact .keeps

/-- A sweep flags SF or BRO alone (R187, R191, R192). -/
theorem ScanMove.errStep {s t : State} {p : ScanAt} (h : ScanMove s p t) : ErrStep s.err t.err := by
  cases h with
  | refused | reset | releaseReset => exact .flags (by decide)
  | absent _ hp => rw [hp.fields]; exact .keeps
  | reported hu hp => rw [hp.fields, hu.fields]; exact .keeps
  | _ => exact .keeps

/-- Of the received bytes `@` alone touches `ERR` (R186). -/
theorem Lexed.errStep {v t : State} {b : Byte} (h : Lexed v b t) : ErrStep v.err t.err := by
  cases h with
  | scan => exact .clears
  | _ => exact .keeps

/-- No step sets one of the two bits of `ERR` (R81). -/
theorem Move.reservedClear {s t : State} (h : Move s t) (he : ReservedClear s.err) : ReservedClear t.err := by
  cases h with
  | waiting hl => rw [hl.fields]; exact he
  | received hr hl => exact hl.errStep.reservedClear (hr.err ▸ he)
  | checkedWalk _ _ _ hw => exact hw.errStep.reservedClear reservedClear_zero
  | bcastWalk _ _ _ hw => rw [hw.fields]; exact reservedClear_zero
  | admin _ _ ha => exact ha.err ▸ he
  | scan _ hs => exact hs.errStep.reservedClear he
  | checked _ hc => exact hc.errStep.reservedClear he
  | bcast _ hb => exact hb.err ▸ he
  | overflow | newLine | resetFailed | fatal => exact he

/-- Settles O55: `ERR` by the kind of the step, and `LASTERR`, where it changes, takes `ERR` or is cleared (O48). -/
theorem stepKeepsTheReservedBitsZero : Obligations.StepKeepsTheReservedBitsZero := by
  intro s t hi h
  obtain ⟨herr, hlast⟩ := reservedBitsInv_iff.1 hi
  have herr' := (step_move h).reservedClear herr
  refine reservedBitsInv_iff.2 ⟨herr', ?_⟩
  by_cases hne : t.lasterr = s.lasterr
  · exact hne ▸ hlast
  · rcases lastErrorHasThreeWriters s t h hne with ⟨-, he⟩ | ⟨-, he⟩ <;> rw [he]
    · exact hlast.or herr'
    · exact reservedClear_zero

/-! ### The causes of a halt (R223) -/

/-- What a step that halts does: it raises the overflow at a full buffer, or the fatal entry of a failed bus reset. -/
inductive Halts (s : State) : State → Prop
  | overflow : s.mode = .lex .l1 → s.tbLen = Config.tbCap → Halts s (s.raiseFatal Config.fatalOverflow)
  | peripheral : s.mode ∈ fatalModes → Halts s (s.raiseFatal Config.fatalPeriph)

/-- No other step halts. -/
theorem Move.halts {s t : State} {c : Nat} (h : Move s t) (hc : t.mode = .halted c) : Halts s t := by
  have hno {m : Mode} (hm : t.mode = m) (hne : m ≠ .halted c) : Halts s t := absurd (hm.symm.trans hc) hne
  cases h with
  | overflow hm hl => exact .overflow hm hl
  | fatal hm => exact .peripheral hm
  | waiting hl => exact hno hl.mode nofun
  | received hr hl =>
    rcases hl.mode with hq | hq | hq | hq | ⟨q, hq, -⟩
    · exact hno (hq.trans hr.mode) nofun
    all_goals exact hno hq nofun
  | newLine => exact hno rfl nofun
  | checkedWalk _ _ _ hw => obtain ⟨q, hq⟩ := hw.mode; exact hno hq nofun
  | bcastWalk _ _ _ hw => obtain ⟨q, hq⟩ := hw.mode; exact hno hq nofun
  | admin _ _ ha => rcases ha.mode with ⟨q, hq, -⟩ | hq <;> exact hno hq nofun
  | scan _ hs => rcases hs.mode with ⟨q, hq⟩ | hq <;> exact hno hq nofun
  | checked _ hk => rcases hk.mode with ⟨q, hq⟩ | hq <;> exact hno hq nofun
  | bcast _ hb => rcases hb.mode with ⟨q, hq⟩ | hq <;> exact hno hq nofun
  | resetFailed hm =>
    obtain ⟨-, hd⟩ := due_failed hm
    exact absurd (congrArg Mode.due hc) (by rw [State.goto_mode, hd]; exact nofun)

/-- The fatal entry is due after a failed bus reset alone (R227). -/
theorem eq_reset_fail {o : Option Event} (h : Due.resetFail.fits o = true) : o = some (.reset .fail) := by
  match o, h with
  | some (.reset .fail), _ => rfl

/-- Settles O46: of the two steps that halt, the fatal entry comes where the order of events makes it due. -/
theorem onlyTwoCausesHalt : Obligations.OnlyTwoCausesHalt := by
  rintro s t c ⟨-, hdue⟩ h hc
  cases (step_move h).halts hc with
  | overflow hm hl => cases hc; exact ⟨rfl, .inl ⟨rfl, hl, hm⟩⟩
  | peripheral hm =>
    cases hc
    rw [due_of_fatalModes hm] at hdue
    exact ⟨rfl, .inr ⟨rfl, eq_reset_fail hdue⟩⟩

/-- Settles O9: a full buffer by `step_full`; below it neither of the two causes of a halt is there. -/
theorem overflowHaltsBeforeTheNextByte : Obligations.OverflowHaltsBeforeTheNextByte := by
  refine fun s hm => ⟨step_full hm, fun hlt t h c hc => ?_⟩
  cases (step_move h).halts hc with
  | overflow _ hl => exact absurd hl hlt.ne
  | peripheral hf => rw [hm] at hf; simp [fatalModes, scanMode] at hf

/-! ### The end-of-line byte (R96) -/

/-- Settles O18: at `L1` the end-of-line instruction is `goto LD`. -/
theorem endOfLineGoesToDispatch : Obligations.EndOfLineGoesToDispatch := by
  intro s hm
  rw [exec, execEol, hm]
  rfl

/-! ### The hex report (R79, R200) -/

/-- The character of a digit: `0` to `9`, then `A` to `F` (R79). -/
theorem hexChar_toNat (n : BitVec 4) :
    (hexChar n).toNat = if n.toNat < 10 then 0x30 + n.toNat else 0x41 + n.toNat - 10 := by
  revert n; decide

/-- The high digit of a byte. -/
theorem highDigit_toNat (b : Byte) : (b.extractLsb' 4 4).toNat = b.toNat / 16 := by
  rw [BitVec.extractLsb'_toNat, Nat.shiftRight_eq_div_pow]
  exact Nat.mod_eq_of_lt (by omega)

/-- The low digit of a byte. -/
theorem lowDigit_toNat (b : Byte) : (b.extractLsb' 0 4).toNat = b.toNat % 16 := by
  rw [BitVec.extractLsb'_toNat, Nat.shiftRight_zero]

/-- Settles O29: the two characters are those of the byte's two digits. -/
theorem hexReportIsTwoDigitsAndTheTerminator : Obligations.HexReportIsTwoDigitsAndTheTerminator := by
  refine fun b => ⟨_, _, rfl, ?_, ?_⟩
  · rw [hexChar_toNat, highDigit_toNat]
  · rw [hexChar_toNat, lowDigit_toNat]

/-! ### A failed bus reset (R227, R229) -/

/-- In the modes of a bus reset the step is one, whose failure leads to the mode's own fatal sub-state. -/
theorem step_reset {s : State} (h : s.mode ∈ resetModes) : ∃ ok, step s = busReset s.mode.failed ok s := by
  simp only [resetModes, List.mem_cons, List.not_mem_nil, or_false] at h
  rcases h with hm | hm | hm | hm | hm | hm | hm
  · rw [step_checked_end hm rfl, exec, execEol, hm]; exact ⟨_, rfl⟩
  · rw [step_checked_end hm rfl, exec, execEol, hm]; exact ⟨_, rfl⟩
  · rw [step_bcast_end hm rfl, exec, execEol, hm]; exact ⟨_, rfl⟩
  · rw [step_bcast_end hm rfl, exec, execEol, hm]; exact ⟨_, rfl⟩
  · rw [step_scan hm, scanCall, hm]; exact ⟨_, rfl⟩
  · rw [step_scan hm, scanCall, hm]; exact ⟨_, rfl⟩
  · rw [step_errReset hm, hm]; exact ⟨_, rfl⟩

/-- After a failed bus reset the fatal entry is next (R227; log 5). -/
theorem step_fatal {s : State} (h : s.mode ∈ fatalModes) : step s = .next (s.raiseFatal Config.fatalPeriph) := by
  simp only [fatalModes, List.mem_cons, List.not_mem_nil, or_false] at h
  rcases h with hm | hm | hm | hm
  · rw [step_checked_end hm rfl, exec, execEol, hm]; rfl
  · rw [step_bcast_end hm rfl, exec, execEol, hm]; rfl
  · rw [step_scan hm]; rfl
  · rw [step_errFatal hm]; rfl

/-- The sub-state that a failed bus reset leads to has the fatal entry next. -/
theorem failed_mem_fatalModes {m : Mode} (h : m ∈ resetModes) : m.failed ∈ fatalModes := by
  revert m; decide

/-- Settles O45: the listed modes are those whose next call is a bus reset, each with the sub-state of its failure. -/
theorem failedBusResetHaltsAtOnce : Obligations.FailedBusResetHaltsAtOnce := by
  intro s p rs hp hm hr
  obtain ⟨hreset, hfailed⟩ : p.1 ∈ resetModes ∧ p.2 = p.1.failed := by
    clear hm
    revert p
    decide
  rw [← hm] at hreset hfailed
  obtain ⟨ok, hstep⟩ := step_reset hreset
  refine ⟨_, rfl, ?_, step_fatal (hfailed ▸ failed_mem_fatalModes hreset)⟩
  rw [hstep, busReset_fail hr, afterReset_eq hr, ← hfailed]
  rfl

end Sys2Proof.Machine
